-- ==== Sys2Proof/Word.lean ====
section
/-! DEFINITION. The bit-vector types of the LM31: bytes of frames and records, 16-bit fields, 32-bit
registers and counters. -/

namespace Sys2Proof

/-- One byte of a frame, of a record or of an image. -/
abbrev Byte := BitVec 8

/-- A 16-bit field or counter. -/
abbrev Half := BitVec 16

/-- A 32-bit register, address or counter. -/
abbrev Word := BitVec 32

end Sys2Proof
end

