-- ==== Sys2Proof/Config.lean ====
section
/-! DEFINITION. What the part fixes: the sizes of its tables and the constants of its formats. The
specification leaves no value open that a running command would need, so nothing here is opaque. -/

namespace Sys2Proof

/-- A station of the table: the entry of address `k + 1` (R23: 31 entries, addresses 1..31). -/
abbrev StationId := Fin 31

/-- A transaction slot, 0..11 (R97). -/
abbrev SlotId := Fin 12

namespace Config

/-- Places of the staging buffer (R178). -/
def stagingPlaces : Nat := 8

/-- Entries the fault list holds at most (R124). -/
def faultListSize : Nat := 16

/-- The delimiter that opens every frame (R3). -/
def delimiter : Byte := 0xA5

/-- The largest payload length a frame may announce (R12). -/
def maxPayload : Nat := 34

/-- The generator polynomial of the frame CRC (R4). -/
def crcPolynomial : Half := 0x1021

/-- What the ID register reads: family code 0D31h in bits 0-15, revision 01h in bits 16-23
(chapter Record Formats and Codes, THE REGISTER WINDOW). -/
def idWord : Word := 0x00010D31

/-- The slave port's address range in bytes (R165: offsets 00h to 3Fh). -/
def portRange : Nat := 0x40

/-- The free-run minimum between two cycle starts, in microseconds (R54, R68). -/
def freeRunMinimum : Nat := 100

end Config
end Sys2Proof
end

