-- ==== Sys2Proof/Syntax.lean ====
section
/-! DEFINITION. The commands the LM31 takes: one constructor of `Instr` for each row of
spec/opcode_table.json, with the row's operands.

A command is an EVENT at the part: a host access, the end of a transaction on the host master port, a
character on the line, the expiry of a timer, a staging grant, or the application of a request that has
been taken. A request row has no operand: what it works on is the 64-byte record that FETCH_END brought
and State holds at stage APPLYING (R146, R175). Reading the rows so is a DESIGN CHOICE (log entry 1). -/

namespace Sys2Proof

/-- The ten registers of the window (R165). -/
inductive Register where
  | id | control | status | ringBase | controlTail | transferTail | completionHead
  | controlHead | transferHead | completionTail
  deriving DecidableEq, Repr

/-- The two submission rings. -/
inductive SubmissionRing where
  | control | transfer
  deriving DecidableEq, Repr

/-- One received character: its eight data bits as sampled, and whether its stop bit sampled at space
(R1). -/
structure Character where
  data : Byte
  framingError : Bool
  deriving DecidableEq, Repr

/-- One access on the slave port: direction, byte offset, width in bytes, the value written (not examined in a
read), and whether RESET_N is low when it is made (a DESIGN CHOICE, log entry 7). -/
structure SlaveAccess where
  write : Bool
  offset : Nat
  width : Nat
  value : Word
  inReset : Bool := false
  deriving DecidableEq, Repr

/-- How the read of the 24-byte ring descriptor block ends (R145). -/
inductive DescriptorEnd where
  | data (bytes : Vector Byte 24)
  | error
  deriving DecidableEq, Repr

/-- The three line events that fix the outcome of an exchange (R14). -/
inductive OutcomeEvent where
  | character (c : Character)
  | responseTimeout
  | interByteTimeout
  deriving DecidableEq, Repr

/-- The events at which a cycle after cycle 0 may start (R64, R66, R68). -/
inductive StartTrigger where
  | cycleDue
  | freeRunMinimum
  | gapEnd
  | emptyCycleGap
  deriving DecidableEq, Repr

/-- The commands: one constructor per row of spec/opcode_table.json, in the table's order. -/
inductive Instr where
  /-- POWER_ON_RESET: RESET_N is held low and then released. -/
  | powerOnReset
  /-- ENABLE: a host write of `value` to CONTROL, with bit 0 set. -/
  | enable (value : Word)
  /-- CONTROLLER_RESET: a host write of `value` to CONTROL, with bit 0 clear. -/
  | controllerReset (value : Word)
  /-- INT_ENABLE_WRITE: a host write of `value` to CONTROL that leaves ENABLE as it reads. -/
  | intEnableWrite (value : Word)
  /-- SUBMISSION_TAIL_WRITE: a host write of `value` to CONTROL_TAIL or TRANSFER_TAIL. -/
  | submissionTailWrite (ring : SubmissionRing) (value : Word)
  /-- COMPLETION_HEAD_WRITE -/
  | completionHeadWrite (value : Word)
  /-- OTHER_REGISTER_WRITE: a host write to RING_BASE or to a read-only register. -/
  | otherRegisterWrite (register : Register) (value : Word)
  /-- BAD_REGISTER_ACCESS: an access that reaches no register, and any access while RESET_N is low. -/
  | badRegisterAccess (access : SlaveAccess)
  /-- DESCRIPTOR_READ_END -/
  | descriptorReadEnd (result : DescriptorEnd)
  /-- FETCH_START -/
  | fetchStart
  /-- FETCH_END: the 64 bytes that the fetch in flight read. -/
  | fetchEnd (record : Vector Byte 64)
  /-- HELD_COPY_TAKEN -/
  | heldCopyTaken
  /-- INVALID_REQUEST_RECORD: the taken record of this ring is refused by the common checks. -/
  | invalidRequestRecord (ring : SubmissionRing)
  /-- OPEN_SESSION -/
  | openSession
  /-- START_CYCLES -/
  | startCycles
  /-- STOP_CYCLES -/
  | stopCycles
  /-- STOP_APPLIED -/
  | stopApplied
  /-- CLOSE_SESSION -/
  | closeSession
  /-- CLOSE_APPLIED -/
  | closeApplied
  /-- CONFIGURE_STATION -/
  | configureStation
  /-- REMOVE_STATION -/
  | removeStation
  /-- REMOVAL_APPLIED -/
  | removalApplied
  /-- READ_STATION -/
  | readStation
  /-- READ_STATS -/
  | readStats
  /-- ABORT -/
  | abort
  /-- ABORT_RESOLVED: the line event that fixes the outcome of the attempt an ABORT waits for. -/
  | abortResolved (event : OutcomeEvent)
  /-- ACK_FAULT -/
  | ackFault
  /-- READ_FAULTS -/
  | readFaults
  /-- RESUME -/
  | resume
  /-- WRITE_OUTPUTS -/
  | writeOutputs
  /-- READ_INPUTS -/
  | readInputs
  /-- SET_WATCH -/
  | setWatch
  /-- KEEPALIVE -/
  | keepalive
  /-- REMOTE_READ -/
  | remoteRead
  /-- REMOTE_WRITE -/
  | remoteWrite
  /-- RESTART_STATION -/
  | restartStation
  /-- CYCLE_START: the event `trigger`, in a state in which it starts a cycle. -/
  | cycleStart (trigger : StartTrigger)
  /-- CYCLE_DUE -/
  | cycleDue
  /-- FREE_RUN_MINIMUM_EXPIRY -/
  | freeRunMinimumExpiry
  /-- EMPTY_CYCLE_GAP_EXPIRY -/
  | emptyCycleGapExpiry
  /-- FRAME_SENT -/
  | frameSent
  /-- REPLY_DELIMITER: a 0A5h without framing error is received. -/
  | replyDelimiter
  /-- REPLY_CHARACTER -/
  | replyCharacter (c : Character)
  /-- RESPONSE_TIMEOUT -/
  | responseTimeout
  /-- INTER_BYTE_TIMEOUT -/
  | interByteTimeout
  /-- GAP_END -/
  | gapEnd
  /-- UNEXPECTED_CHARACTER -/
  | unexpectedCharacter (c : Character)
  /-- RUN_QUIET_END -/
  | runQuietEnd
  /-- CONFIRM_COMPLETE: the last character of the reply that completes a pending confirm. -/
  | confirmComplete (c : Character)
  /-- BACKOFF_EXPIRY -/
  | backoffExpiry (slot : SlotId)
  /-- RESTART_TIMER_EXPIRY -/
  | restartTimerExpiry (station : StationId)
  /-- HOLD_TIMER_EXPIRY -/
  | holdTimerExpiry
  /-- STAGING_GRANT -/
  | stagingGrant
  /-- POST_START -/
  | postStart
  /-- POST_END -/
  | postEnd
  /-- AGE_TIMER_EXPIRY -/
  | ageTimerExpiry
  /-- MASTER_PORT_ERROR -/
  | masterPortError
  /-- CHARACTER_DISCARDED_IN_AWAITING -/
  | characterDiscardedInAwaiting (c : Character)
  deriving DecidableEq, Repr

end Sys2Proof
end

