-- ==== Sys2Proof/Machine/Window.lean ====
section
/-! DEFINITION. The register window as the slave port sees it: the offset of each register, which
accesses reach one, and the delimiter test of the line side. -/

namespace Sys2Proof

/-- The byte offset of a register (chapter Record Formats and Codes, THE REGISTER WINDOW). -/
def Register.offset : Register → Nat
  | .id => 0x00
  | .control => 0x04
  | .status => 0x08
  | .ringBase => 0x0C
  | .controlTail => 0x10
  | .transferTail => 0x14
  | .completionHead => 0x18
  | .controlHead => 0x1C
  | .transferHead => 0x20
  | .completionTail => 0x24

/-- The register at a byte offset, if one lies there. -/
def Register.atOffset (offset : Nat) : Option Register :=
  [Register.id, .control, .status, .ringBase, .controlTail, .transferTail, .completionHead,
    .controlHead, .transferHead, .completionTail].find? (fun r => r.offset = offset)

/-- The access reaches a register: 32 bits wide, aligned, at the offset of one of the ten (R165). -/
def SlaveAccess.good (a : SlaveAccess) : Bool :=
  a.width = 4 && a.offset % 4 = 0 && (Register.atOffset a.offset).isSome

/-- The register is RING_BASE or one the host may only read (R165). -/
def Register.otherWrite : Register → Bool
  | .ringBase | .id | .status | .controlHead | .transferHead | .completionTail => true
  | .control | .controlTail | .transferTail | .completionHead => false

/-- The character is the delimiter of a reply: 0A5h without framing error (R11). -/
def Character.isDelimiter (c : Character) : Bool :=
  c.data = Config.delimiter && !c.framingError

end Sys2Proof
end

