-- ==== Sys2Proof/WellFormed.lean ====
section
/-! DEFINITION. Which terms of `Instr` name a command of their row: the operand of a host access must be
the access the row is about. `exec` gives every term a meaning, well formed or not (an ill-formed one is
an access or a character of another row, and has that one's effect). -/

namespace Sys2Proof

/-- The term names a command of its row. -/
def WellFormed : Instr → Bool
  | .enable value => value.getLsbD 0
  | .controllerReset value => !value.getLsbD 0
  | .otherRegisterWrite register _ => register.otherWrite
  | .badRegisterAccess access => (!access.good || access.inReset) && access.offset < Config.portRange
  | .characterDiscardedInAwaiting c => !c.isDelimiter
  | .powerOnReset | .intEnableWrite _ | .submissionTailWrite _ _ | .completionHeadWrite _
  | .descriptorReadEnd _ | .fetchStart | .fetchEnd _ | .heldCopyTaken | .invalidRequestRecord _
  | .openSession | .startCycles | .stopCycles | .stopApplied | .closeSession | .closeApplied
  | .configureStation | .removeStation | .removalApplied | .readStation | .readStats | .abort
  | .abortResolved _ | .ackFault | .readFaults | .resume | .writeOutputs | .readInputs | .setWatch
  | .keepalive | .remoteRead | .remoteWrite | .restartStation | .cycleStart _ | .cycleDue
  | .freeRunMinimumExpiry | .emptyCycleGapExpiry | .frameSent | .replyDelimiter | .replyCharacter _
  | .responseTimeout | .interByteTimeout | .gapEnd | .unexpectedCharacter _ | .runQuietEnd
  | .confirmComplete _ | .backoffExpiry _ | .restartTimerExpiry _ | .holdTimerExpiry | .stagingGrant
  | .postStart | .postEnd | .ageTimerExpiry | .masterPortError => true

end Sys2Proof
end

