-- ==== Sys2Proof/Decode.lean ====
section
/-! DEFINITION. The command a word spells by the bits of spec/opcode_table.json. No row of the table
gives bits ("fields" is empty in all 58, and none has a pattern), so no word spells a command. -/

namespace Sys2Proof

/-- The command a word of `nbits` bits spells: none, since no row of the table has an encoding (log entry 21). -/
def decodeTableWord (_nbits _w : Nat) : Option Instr := none

end Sys2Proof
end

