-- ==== Sys2Proof/Machine/State.lean ====
section
/-! DEFINITION. The state of the LM31, block by block as the manual gives it (R7, R23, R50, R88, R97,
R98, R123, R142, R164), its value after power-on reset, and the reasons a step may stop. -/

namespace Sys2Proof.Machine

/-! ## Status codes and records -/

/-- Details of class REJECTED (chapter Record Formats and Codes). -/
inductive RejectDetail where
  | unknownKind | wrongRing | badStation | badLength | badParameter | badState | notConfigured | inUse
  | notFound | tooLate
  deriving DecidableEq, Repr

/-- Details of class STATION. -/
inductive StationDetail where
  | notActive | lost | removed | busy | refused | mismatch | inputsNotValid | outputsHeld
  deriving DecidableEq, Repr

/-- The link detail codes of R14. -/
inductive LinkDetail where
  | timeout | crcError | malformed | toggleError | misaddressed
  deriving DecidableEq, Repr

/-- Details of class ENDED. -/
inductive EndDetail where
  | aborted | superseded | cyclesStopped | sessionClosed
  deriving DecidableEq, Repr

/-- A completion status: its class and detail. -/
inductive Status where
  | ok
  | rejected (detail : RejectDetail)
  | station (detail : StationDetail)
  | link (detail : LinkDetail)
  | ended (detail : EndDetail)
  deriving DecidableEq, Repr

/-- The 64 bytes of a request record, as read. -/
abbrev Record := Vector Byte 64

/-- The answer to one request, as its owner fixes it. Kind, tag and station are the request's bytes. -/
structure Completion where
  kind : Byte
  tag : Half
  station : Byte
  ring : SubmissionRing
  index : Nat
  status : Status
  extra : List Byte
  data : List Byte
  deriving DecidableEq, Repr

/-- A completion record as staged: everything but the phase flag, which is set at the post (R179). -/
structure CompletionRecord where
  event : Bool
  kind : Byte
  tag : Half
  status : Status
  station : Byte
  index : Nat
  fromTransfer : Bool
  controlHead : Nat
  transferHead : Nat
  count : Half
  cycle : Word
  extra : List Byte
  data : List Byte
  deriving DecidableEq, Repr

/-! ## Session Controller (R142) -/

inductive EngineState where
  | off | idle | config | run | closing | halted
  deriving DecidableEq, Repr

inductive HaltReason where
  | none | badDescriptor | fetchError | postError
  deriving DecidableEq, Repr

inductive ResetCause where
  | power | controller
  deriving DecidableEq, Repr

/-- A STOP_CYCLES or CLOSE_SESSION taken and not yet applied. -/
inductive Teardown where
  | none | stop | close
  deriving DecidableEq, Repr

/-- The stage of the control request in progress. `lineReported` is the model's note, in WAITING, that
the exchange the request waits for has ended and been delivered (DESIGN CHOICE, log entry 3). -/
inductive Stage where
  | applying
  | waiting (lineReported : Bool)
  | ready (completion : Completion)
  deriving DecidableEq, Repr

/-- The control request in progress: its record (kind and tag are bytes of it), its control ring index
and its stage. -/
structure ControlRequest where
  record : Record
  index : Nat
  stage : Stage
  deriving DecidableEq, Repr

structure SessionController where
  engine : EngineState
  haltReason : HaltReason
  resetCause : ResetCause
  /-- The descriptor read in flight, with the address it reads at. -/
  descriptorRead : Option Word
  teardown : Teardown
  request : Option ControlRequest
  deriving DecidableEq, Repr

/-! ## Host Queue Interface (R164, R166) -/

/-- One ring as attached: base address and entry count. -/
structure Ring where
  base : Word
  count : Nat
  deriving DecidableEq, Repr

structure RingAttachment where
  control : Ring
  transfer : Ring
  completion : Ring
  deriving DecidableEq, Repr

/-- A request record being read. `withdrawn`: a tail write has left the ring empty since the read
started, so the copy is discarded when the read ends (R170; DEDUCED, log entry 19). -/
structure Fetch where
  ring : SubmissionRing
  index : Nat
  withdrawn : Bool
  deriving DecidableEq, Repr

/-- A transfer record taken and handed to its owner, which has not yet applied it: the transfer ring's
counterpart of stage APPLYING (DESIGN CHOICE, log entry 2). -/
structure TakenRecord where
  record : Record
  index : Nat
  deriving DecidableEq, Repr

/-- One entry of the transfer ready list (R177). -/
inductive ReadyEntry where
  | nonSlot
  | confirm (station : StationId)
  deriving DecidableEq, Repr

/-- Who is told when a staged record is posted (R180). -/
inductive Owner where
  | request
  | change (station : StationId)
  | stationState (station : StationId)
  | safe
  | fault
  deriving DecidableEq, Repr

structure StagedRecord where
  record : CompletionRecord
  owner : Owner
  deriving DecidableEq, Repr

/-- The write of one record into the completion ring: where it goes and its 64 bytes. -/
structure PostWrite where
  address : Word
  bytes : List Byte
  deriving DecidableEq, Repr

structure HostQueue where
  enable : Bool
  intEnable : Bool
  ringBase : Word
  attachment : Option RingAttachment
  controlHead : Nat
  transferHead : Nat
  controlTail : Nat
  transferTail : Nat
  completionTail : Nat
  completionHead : Nat
  phase : Bool
  controlTailMark : Bool
  transferTailMark : Bool
  completionHeadMark : Bool
  fetch : Option Fetch
  heldCopy : Option Record
  taken : Option TakenRecord
  nonSlot : Option Completion
  readyList : List ReadyEntry
  staging : List StagedRecord
  post : Option PostWrite
  threshold : Nat
  delay : Nat
  /-- Microseconds left; `none` is stopped. Every timer of the state is held so (DEDUCED, log entry 5). -/
  ageTimer : Option Nat
  delayReached : Bool
  deriving DecidableEq, Repr

/-! ## Station Table (R23, R80, R84, R49) -/

inductive StationState where
  | unused | probing | active | degraded | lost | mismatch | restarting
  deriving DecidableEq, Repr

structure Identity where
  type : Half
  inputSize : Byte
  outputSize : Byte
  firmware : Byte
  deriving DecidableEq, Repr

structure ChangeReport where
  pending : Bool
  inStaging : Bool
  bits : List Byte
  coalesce : Byte
  deriving DecidableEq, Repr

structure StateReport where
  pending : Bool
  inStaging : Bool
  transitions : Byte
  deriving DecidableEq, Repr

/-- A deferred WRITE_OUTPUTS: tag, transfer ring index, and whether a POLL built since carries it. -/
structure Confirm where
  tag : Half
  index : Nat
  carried : Bool
  deriving DecidableEq, Repr

structure ConfirmResult where
  tag : Half
  index : Nat
  status : Status
  deriving DecidableEq, Repr

structure StationCounters where
  pollsSent : Word
  goodReplies : Word
  timeouts : Half
  crcErrors : Half
  waits : Half
  refuses : Half
  deriving DecidableEq, Repr

structure Station where
  state : StationState
  expectedType : Half
  inputSize : Nat
  outputSize : Nat
  learned : Option Identity
  divisor : Nat
  missLimit : Nat
  missCount : Nat
  /-- In milliseconds. -/
  restartDelay : Nat
  restartTimer : Option Nat
  outputImage : List Byte
  safeImage : List Byte
  inputImage : List Byte
  inputsValid : Bool
  lastReported : List Byte
  watchMask : List Byte
  change : ChangeReport
  report : StateReport
  confirm : Option Confirm
  toggle : Bool
  resync : Bool
  removePending : Bool
  statusCode : BitVec 4
  counters : StationCounters
  /-- The confirm results list, oldest first (R80). -/
  results : List ConfirmResult
  deriving DecidableEq, Repr

structure StationTable where
  /-- The session option for STATION_STATE events. -/
  stateEvents : Bool
  entries : Vector Station 31
  deriving DecidableEq, Repr

/-! ## Line Controller (R7, R9) -/

inductive LineState where
  | off | idle | sending | awaiting | receiving | gap
  deriving DecidableEq, Repr

/-- The five bit rates of R2. -/
inductive BitRate where
  | k500 | m1 | m2 | m4 | m8
  deriving DecidableEq, Repr

structure LineParams where
  rate : BitRate
  /-- Microseconds. -/
  responseTimeout : Nat
  /-- Byte times. -/
  gap : Nat
  deriving DecidableEq, Repr

inductive FrameKind where
  | poll | ident | paramRead | paramWrite | restart | sync
  deriving DecidableEq, Repr

/-- What the CS hands the LC to send: station address (0 for SYNC), kind, toggle, payload, and the
payload length a DATA reply must have, where a DATA reply may answer (R6). -/
structure SendRequest where
  address : Nat
  kind : FrameKind
  toggle : Bool
  payload : List Byte
  dataLength : Option Nat
  deriving DecidableEq, Repr

structure ExchangeRecord where
  address : Nat
  kind : FrameKind
  toggle : Bool
  dataLength : Option Nat
  deriving DecidableEq, Repr

structure LineController where
  state : LineState
  params : Option LineParams
  responseTimer : Option Nat
  gapTimer : Option Nat
  quietTimer : Option Nat
  tx : List Byte
  rx : List Byte
  /-- A character of the reply being received, delimiter excepted, had a framing error (R12). -/
  corrupt : Bool
  exchange : Option ExchangeRecord
  /-- The send request held for the end of a gap (R9). -/
  held : Option SendRequest
  run : Bool
  perCycle : Half
  unexpected : Word
  deriving DecidableEq, Repr

/-! ## Cycle Scheduler (R50) -/

inductive Phase where
  | stopped | poll | sync | probe | window | awaitStart
  deriving DecidableEq, Repr

inductive PeriodMode where
  | fixed | freeRun
  deriving DecidableEq, Repr

/-- The exchange handed to the LC and not yet ended. -/
inductive InHand where
  | poll (station : StationId)
  | sync
  | probe (station : StationId)
  | attempt (slot : SlotId) (station : StationId)
  deriving DecidableEq, Repr

structure Scheduler where
  phase : Phase
  mode : PeriodMode
  period : Nat
  budget : Nat
  syncOption : Bool
  cycle : Word
  startTime : Nat
  due : Option Nat
  cycleTimer : Option Nat
  emptyGapTimer : Option Nat
  /-- The stations still to be polled in this cycle (DESIGN CHOICE, log entry 24). -/
  pollList : List StationId
  pollsSent : Bool
  probePointer : Nat
  attempts : Byte
  inHand : Option InHand
  activityEnd : Option Nat
  overrun : Bool
  runLength : Word
  lastBusy : Option Word
  minBusy : Option Word
  maxBusy : Option Word
  overrunCount : Word
  /-- The model's note that the current cycle has made an exchange (R64, R68; log entry 19). -/
  exchanged : Bool
  deriving DecidableEq, Repr

/-! ## Transaction Table (R97, R98) -/

inductive SlotState where
  | free | queued | onLink | backoff | done
  deriving DecidableEq, Repr

inductive RemoteKind where
  | read | write | restart
  deriving DecidableEq, Repr

inductive AttemptForm where
  | frame | resync
  deriving DecidableEq, Repr

structure SlotResult where
  status : Status
  dataLength : Nat
  deriving DecidableEq, Repr

structure Slot where
  state : SlotState
  kind : Option RemoteKind
  tag : Half
  index : Nat
  /-- The station addressed; `none` is the reset value 0 (DESIGN CHOICE, log entry 17). -/
  station : Option StationId
  remoteAddress : Option Half
  count : Nat
  data : List Byte
  attemptCount : Nat
  waitCount : Nat
  fitPass : Nat
  form : Option AttemptForm
  doubtful : Bool
  abortPending : Bool
  backoffTimer : Option Nat
  result : Option SlotResult
  deriving DecidableEq, Repr

/-- The code given to an attempt in hand when a stop or a close is taken. -/
inductive EndingCode where
  | cyclesStopped | sessionClosed
  deriving DecidableEq, Repr

structure TransactionTable where
  slots : Vector Slot 12
  /-- The non-FREE slots in take order, oldest first. -/
  age : List SlotId
  doneQueue : List SlotId
  fifos : Vector (List SlotId) 31
  attemptLimit : Nat
  waitLimit : Nat
  /-- Microseconds. -/
  defaultBackoff : Nat
  ending : Option EndingCode
  deriving DecidableEq, Repr

/-! ## Hold Monitor (R88) -/

structure SafeEvent where
  pending : Bool
  inStaging : Bool
  count : Byte
  deriving DecidableEq, Repr

structure HoldMonitor where
  /-- Milliseconds; 0 is hold monitoring off. -/
  holdTime : Nat
  timer : Option Nat
  safe : Bool
  event : SafeEvent
  deriving DecidableEq, Repr

/-! ## Fault List (R123) -/

inductive FaultKind where
  | stationLost | stationMismatch | stationError | lineFault | cycleOverrun | holdExpired
  deriving DecidableEq, Repr

structure FaultEntry where
  kind : FaultKind
  station : Nat
  detail : Byte
  /-- The cause is ENDED; otherwise it is ACTIVE. -/
  ended : Bool
  acknowledged : Bool
  firstCycle : Word
  lastCycle : Word
  occurrences : Byte
  deriving DecidableEq, Repr

/-- The last change since the last FAULT record was staged (R136). -/
inductive Carried where
  | none
  | entry (kind : FaultKind) (station : Nat)
  | removed (entry : FaultEntry) (position : Nat)
  deriving DecidableEq, Repr

structure FaultList where
  entries : List FaultEntry
  overflow : Half
  pending : Bool
  inStaging : Bool
  changes : Half
  carried : Carried
  deriving DecidableEq, Repr

/-! ## The part -/

/-- What the slave port answered to the last host access (the model's own, log entry 6). -/
inductive BusResponse where
  | none
  | written
  | read (value : Word)
  | error
  deriving DecidableEq, Repr

structure State where
  hqi : HostQueue
  sc : SessionController
  st : StationTable
  lc : LineController
  cs : Scheduler
  tt : TransactionTable
  hm : HoldMonitor
  fl : FaultList
  /-- The timebase reading in microseconds (R50 reads it for the cycle start time; log entry 5). -/
  now : Nat
  bus : BusResponse
  /-- The commands that wait, first in, first out (log entry 21). -/
  pending : List Instr
  deriving DecidableEq, Repr

/-- No command of the LM31 stops the part with a fault: a host memory that does not answer takes the
engine to HALTED (R158), which is a state like any other, and every other error is a completion status,
a bus error response or a STATUS field. -/
inductive Fault where
  deriving DecidableEq, Repr

/-- Why a command has no meaning. -/
inductive Refusal where
  /-- Raised by `exec` for a row without a meaning (none is left). Safe: the run stops. -/
  | notModelled (mnemonic : String)
  deriving DecidableEq, Repr

/-! ## Reset values -/

/-- A change report that is closed, with its in-staging mark as given. -/
def ChangeReport.closed (inStaging : Bool) : ChangeReport :=
  { pending := false, inStaging := inStaging, bits := [], coalesce := 0 }

/-- A state report with nothing to report, with its in-staging mark as given. -/
def StateReport.idle (inStaging : Bool) : StateReport :=
  { pending := false, inStaging := inStaging, transitions := 0 }

def StationCounters.zero : StationCounters :=
  { pollsSent := 0, goodReplies := 0, timeouts := 0, crcErrors := 0, waits := 0, refuses := 0 }

/-- The values of R23, last column. -/
def Station.reset : Station where
  state := .unused
  expectedType := 0
  inputSize := 0
  outputSize := 0
  learned := none
  divisor := 1
  missLimit := 1
  missCount := 0
  restartDelay := 1
  restartTimer := none
  outputImage := []
  safeImage := []
  inputImage := []
  inputsValid := false
  lastReported := []
  watchMask := []
  change := .closed false
  report := .idle false
  confirm := none
  toggle := false
  resync := false
  removePending := false
  statusCode := 0
  counters := .zero
  results := []

/-- The values of R97, last column. -/
def Slot.reset : Slot where
  state := .free
  kind := none
  tag := 0
  index := 0
  station := none
  remoteAddress := none
  count := 0
  data := []
  attemptCount := 0
  waitCount := 0
  fitPass := 0
  form := none
  doubtful := false
  abortPending := false
  backoffTimer := none
  result := none

/-- R142, with the reset cause of the reset just taken. -/
def SessionController.reset (cause : ResetCause) : SessionController where
  engine := .off
  haltReason := .none
  resetCause := cause
  descriptorRead := none
  teardown := .none
  request := none

/-- R164, R161. -/
def HostQueue.reset : HostQueue where
  enable := false
  intEnable := false
  ringBase := 0
  attachment := none
  controlHead := 0
  transferHead := 0
  controlTail := 0
  transferTail := 0
  completionTail := 0
  completionHead := 0
  phase := true
  controlTailMark := false
  transferTailMark := false
  completionHeadMark := false
  fetch := none
  heldCopy := none
  taken := none
  nonSlot := none
  readyList := []
  staging := []
  post := none
  threshold := 1
  delay := 0
  ageTimer := none
  delayReached := false

/-- R7. -/
def LineController.reset : LineController where
  state := .off
  params := none
  responseTimer := none
  gapTimer := none
  quietTimer := none
  tx := []
  rx := []
  corrupt := false
  exchange := none
  held := none
  run := false
  perCycle := 0
  unexpected := 0

/-- R50. -/
def Scheduler.reset : Scheduler where
  phase := .stopped
  mode := .fixed
  period := 0
  budget := 1
  syncOption := false
  cycle := 0
  startTime := 0
  due := none
  cycleTimer := none
  emptyGapTimer := none
  pollList := []
  pollsSent := false
  probePointer := 0
  attempts := 0
  inHand := none
  activityEnd := none
  overrun := false
  runLength := 0
  lastBusy := none
  minBusy := none
  maxBusy := none
  overrunCount := 0
  exchanged := false

/-- R97, R98. -/
def TransactionTable.reset : TransactionTable where
  slots := Vector.replicate 12 Slot.reset
  age := []
  doneQueue := []
  fifos := Vector.replicate 31 []
  attemptLimit := 1
  waitLimit := 0
  defaultBackoff := 100
  ending := none

/-- R88. -/
def HoldMonitor.reset : HoldMonitor where
  holdTime := 0
  timer := none
  safe := false
  event := { pending := false, inStaging := false, count := 0 }

/-- R123. -/
def FaultList.reset : FaultList where
  entries := []
  overflow := 0
  pending := false
  inStaging := false
  changes := 0
  carried := .none

/-- The part right after a reset of the given kind (R161, R162), with nothing waiting. The STATION_STATE event
option, for which no rule gives a reset value, is off (DESIGN CHOICE, log entry 26). -/
def State.resetBy (cause : ResetCause) : State where
  hqi := .reset
  sc := .reset cause
  st := { stateEvents := false, entries := Vector.replicate 31 Station.reset }
  lc := .reset
  cs := .reset
  tt := .reset
  hm := .reset
  fl := .reset
  now := 0
  bus := .none
  pending := []

/-- The machine right after reset: a power-on reset (R161; the model's own fields by log entries 6, 7, 19
and 21). -/
def State.reset : State := State.resetBy .power

end Sys2Proof.Machine
end

