-- ==== Sys2Proof/Machine/Bits.lean ====
section
/-! DEFINITION. Byte order, saturating counts and the byte forms of small numbers: every multi-byte
field is little-endian (chapter ABOUT THE LM31, CONVENTIONS). -/

namespace Sys2Proof.Machine

/-- Count one up and stay at the largest value: a saturating counter. -/
def satInc (x : BitVec w) : BitVec w :=
  if x = BitVec.allOnes w then x else x + 1

/-- The two bytes of a 16-bit field, least significant first. -/
def halfBytes (x : Half) : List Byte :=
  [x.extractLsb' 0 8, x.extractLsb' 8 8]

/-- The four bytes of a 32-bit field, least significant first. -/
def wordBytes (x : Word) : List Byte :=
  [x.extractLsb' 0 8, x.extractLsb' 8 8, x.extractLsb' 16 8, x.extractLsb' 24 8]

/-- A 16-bit field from its two bytes, `low` at the lower address. -/
def halfOf (low high : Byte) : Half :=
  high ++ low

/-- A 32-bit field from its four bytes in address order. -/
def wordOf (b0 b1 b2 b3 : Byte) : Word :=
  b3 ++ b2 ++ b1 ++ b0

/-- A byte holding a number below 256. -/
def byteOf (n : Nat) : Byte :=
  BitVec.ofNat 8 n

/-- A byte with bit 0 as given. -/
def flagBit (b : Bool) (position : Nat) : Byte :=
  if b then (1 : Byte) <<< position else 0

/-- The number of 1 bits of a byte. -/
def popCount (b : Byte) : Nat :=
  ((List.range 8).filter (fun i => b.getLsbD i)).length

/-- A list padded with zero bytes on the right, or cut, to exactly `n` bytes. -/
def padTo (n : Nat) (bytes : List Byte) : List Byte :=
  bytes.take n ++ List.replicate (n - bytes.length) 0

/-- Byte-by-byte exclusive OR. -/
def xorBytes (xs ys : List Byte) : List Byte :=
  List.zipWith (· ^^^ ·) xs ys

/-- Byte-by-byte AND. -/
def andBytes (xs ys : List Byte) : List Byte :=
  List.zipWith (· &&& ·) xs ys

/-- Byte-by-byte OR. -/
def orBytes (xs ys : List Byte) : List Byte :=
  List.zipWith (· ||| ·) xs ys

/-- Some byte of the list is not zero. -/
def anyNonzero (bytes : List Byte) : Bool :=
  bytes.any (fun b => b ≠ 0)

/-- `n` bytes of one value. -/
def fill (n : Nat) (b : Byte) : List Byte :=
  List.replicate n b

end Sys2Proof.Machine
end

