-- ==== Sys2Proof/Machine/Operands.lean ====
section
/-! DEFINITION. The operand forms of the request rows: the fields of the 64-byte request record, the
codes of its kind byte, the common checks of R174 and the parameter blocks of OPEN_SESSION and
CONFIGURE_STATION (chapter Record Formats and Codes, THE REQUEST RECORD; R189, R190). -/

namespace Sys2Proof.Machine

/-- The nineteen request kinds. -/
inductive RequestKind where
  | openSession | closeSession | startCycles | stopCycles | configureStation | removeStation | abort
  | ackFault | readFaults | readStats | readStation | resume
  | writeOutputs | readInputs | setWatch | keepalive | remoteRead | remoteWrite | restartStation
  deriving DecidableEq, Repr

/-- The kind a kind byte names, if it names one. -/
def RequestKind.ofCode (code : Byte) : Option RequestKind :=
  match code.toNat with
  | 0x01 => some .openSession
  | 0x02 => some .closeSession
  | 0x03 => some .startCycles
  | 0x04 => some .stopCycles
  | 0x05 => some .configureStation
  | 0x06 => some .removeStation
  | 0x07 => some .abort
  | 0x08 => some .ackFault
  | 0x09 => some .readFaults
  | 0x0A => some .readStats
  | 0x0B => some .readStation
  | 0x0C => some .resume
  | 0x21 => some .writeOutputs
  | 0x22 => some .readInputs
  | 0x23 => some .setWatch
  | 0x24 => some .keepalive
  | 0x25 => some .remoteRead
  | 0x26 => some .remoteWrite
  | 0x27 => some .restartStation
  | _ => none

/-- The kind byte of a kind. -/
def RequestKind.code : RequestKind → Byte
  | .openSession => 0x01
  | .closeSession => 0x02
  | .startCycles => 0x03
  | .stopCycles => 0x04
  | .configureStation => 0x05
  | .removeStation => 0x06
  | .abort => 0x07
  | .ackFault => 0x08
  | .readFaults => 0x09
  | .readStats => 0x0A
  | .readStation => 0x0B
  | .resume => 0x0C
  | .writeOutputs => 0x21
  | .readInputs => 0x22
  | .setWatch => 0x23
  | .keepalive => 0x24
  | .remoteRead => 0x25
  | .remoteWrite => 0x26
  | .restartStation => 0x27

/-- The submission ring a kind belongs to. -/
def RequestKind.ring : RequestKind → SubmissionRing
  | .openSession | .closeSession | .startCycles | .stopCycles | .configureStation | .removeStation
  | .abort | .ackFault | .readFaults | .readStats | .readStation | .resume => .control
  | .writeOutputs | .readInputs | .setWatch | .keepalive | .remoteRead | .remoteWrite
  | .restartStation => .transfer

/-- The nine kinds that name a station. -/
def RequestKind.namesStation : RequestKind → Bool
  | .configureStation | .removeStation | .readStation | .writeOutputs | .readInputs | .setWatch
  | .remoteRead | .remoteWrite | .restartStation => true
  | .openSession | .closeSession | .startCycles | .stopCycles | .abort | .ackFault | .readFaults
  | .readStats | .resume | .keepalive => false

/-! ## The fields of a record -/

def Record.kindByte (r : Record) : Byte := r[0]

def Record.kind (r : Record) : Option RequestKind := RequestKind.ofCode r.kindByte

/-- Flag bit 0, CONFIRM. -/
def Record.confirmFlag (r : Record) : Bool := r[1].getLsbD 0

/-- Flag bit 1, CLEAR. -/
def Record.clearFlag (r : Record) : Bool := r[1].getLsbD 1

def Record.tag (r : Record) : Half := halfOf r[2] r[3]

def Record.stationByte (r : Record) : Byte := r[4]

def Record.dataLength (r : Record) : Nat := r[5].toNat

def Record.paramA (r : Record) : Half := halfOf r[6] r[7]

/-- The data field up to the data length (R189). -/
def Record.data (r : Record) : List Byte := (r.toList.drop 32).take r.dataLength

/-- The station of address `a`, for 1..31. -/
def stationAt (a : Nat) : Option StationId :=
  if h : 1 ≤ a ∧ a ≤ 31 then some ⟨a - 1, by omega⟩ else none

/-- The address of a station, 1..31. -/
def address (k : StationId) : Nat := k.val + 1

/-- The station a record names. -/
def Record.station (r : Record) : Option StationId := stationAt r.stationByte.toNat

/-- R174: the common checks, in order; `none` when all four pass. -/
def Record.commonCheck (ring : SubmissionRing) (r : Record) : Option RejectDetail :=
  match r.kind with
  | none => some .unknownKind
  | some k =>
    if k.ring ≠ ring then some .wrongRing
    else if k.namesStation ∧ r.station = none then some .badStation
    else if k.namesStation ∧ 32 < r.dataLength then some .badLength
    else none

/-- The record passes R174 on `ring` and is of kind `k`. -/
def Record.isValid (ring : SubmissionRing) (k : RequestKind) (r : Record) : Bool :=
  r.commonCheck ring = none ∧ r.kind = some k

/-! ## OPEN_SESSION -/

/-- The twelve parameters of R148. -/
structure SessionParams where
  bitRate : Nat
  responseTimeout : Nat
  gap : Nat
  period : Nat
  budget : Nat
  attemptLimit : Nat
  waitLimit : Nat
  backoff : Nat
  holdTime : Nat
  options : Byte
  threshold : Nat
  delay : Nat
  deriving DecidableEq, Repr

/-- The bytes of OPEN_SESSION. -/
def Record.sessionParams (r : Record) : SessionParams where
  bitRate := r[8].toNat
  gap := r[9].toNat
  responseTimeout := (halfOf r[10] r[11]).toNat
  period := (wordOf r[12] r[13] r[14] r[15]).toNat
  budget := r[16].toNat
  attemptLimit := r[17].toNat
  waitLimit := r[18].toNat
  options := r[19]
  backoff := (halfOf r[20] r[21]).toNat
  holdTime := (halfOf r[22] r[23]).toNat
  threshold := r[24].toNat
  delay := (halfOf r[26] r[27]).toNat

/-- The number lies in the closed range. -/
def inRange (low high n : Nat) : Bool := low ≤ n ∧ n ≤ high

/-- R148, R190: the number of the first parameter out of range, in the order of the table. -/
def SessionParams.firstBad (p : SessionParams) : Option Nat :=
  if !inRange 0 4 p.bitRate then some 1
  else if !inRange 20 5000 p.responseTimeout then some 2
  else if !inRange 2 16 p.gap then some 3
  else if !(p.period = 0 || inRange 200 100000 p.period) then some 4
  else if !inRange 1 8 p.budget then some 5
  else if !inRange 1 8 p.attemptLimit then some 6
  else if !inRange 0 15 p.waitLimit then some 7
  else if !inRange 100 25500 p.backoff then some 8
  else if !(p.holdTime = 0 || inRange 10 60000 p.holdTime) then some 9
  else if p.options.extractLsb' 2 6 ≠ 0 then some 10
  else if !inRange 1 64 p.threshold then some 11
  else if !inRange 0 10000 p.delay then some 12
  else none

/-- Option bit 0. -/
def SessionParams.syncOption (p : SessionParams) : Bool := p.options.getLsbD 0

/-- Option bit 1. -/
def SessionParams.stateEvents (p : SessionParams) : Bool := p.options.getLsbD 1

/-- The bit rate of a bit rate code (R2). -/
def BitRate.ofCode (code : Nat) : BitRate :=
  match code with
  | 0 => .k500
  | 1 => .m1
  | 2 => .m2
  | 3 => .m4
  | _ => .m8

/-! ## CONFIGURE_STATION -/

/-- The parameters of R25. -/
structure StationParams where
  expectedType : Half
  inputSize : Nat
  outputSize : Nat
  divisor : Nat
  missLimit : Nat
  restartDelay : Nat
  deriving DecidableEq, Repr

/-- The bytes of CONFIGURE_STATION. -/
def Record.stationParams (r : Record) : StationParams where
  expectedType := halfOf r[8] r[9]
  inputSize := r[10].toNat
  outputSize := r[11].toNat
  divisor := r[12].toNat
  missLimit := r[13].toNat
  restartDelay := r[14].toNat

/-- The second check of R25. -/
def StationParams.valid (p : StationParams) : Bool :=
  p.inputSize ≤ 16 && p.outputSize ≤ 16
    && (p.divisor = 1 || p.divisor = 2 || p.divisor = 4 || p.divisor = 8)
    && inRange 1 15 p.missLimit && inRange 1 255 p.restartDelay

/-! ## Other kind-specific bytes -/

/-- REMOTE_READ: the count, byte 8. -/
def Record.readCount (r : Record) : Nat := r[8].toNat

/-- ACK_FAULT: the fault kind or ALL, byte 8. -/
def Record.faultSelector (r : Record) : Nat := r[8].toNat

/-- ACK_FAULT: the station, byte 9. -/
def Record.faultStation (r : Record) : Nat := r[9].toNat

end Sys2Proof.Machine
end

