-- ==== Sys2Proof/Machine/Formats.lean ====
section
/-! DEFINITION. The byte layouts the LM31 writes: codes, the completion record, the compact fault report
and the data of the read requests (chapter Record Formats and Codes). -/

namespace Sys2Proof.Machine

def RejectDetail.code : RejectDetail → Byte
  | .unknownKind => 1
  | .wrongRing => 2
  | .badStation => 3
  | .badLength => 4
  | .badParameter => 5
  | .badState => 6
  | .notConfigured => 7
  | .inUse => 8
  | .notFound => 9
  | .tooLate => 10

def StationDetail.code : StationDetail → Byte
  | .notActive => 1
  | .lost => 2
  | .removed => 3
  | .busy => 4
  | .refused => 5
  | .mismatch => 6
  | .inputsNotValid => 7
  | .outputsHeld => 8

/-- The link detail codes of R14. -/
def LinkDetail.code : LinkDetail → Byte
  | .timeout => 1
  | .crcError => 2
  | .malformed => 3
  | .toggleError => 4
  | .misaddressed => 5

def EndDetail.code : EndDetail → Byte
  | .aborted => 1
  | .superseded => 2
  | .cyclesStopped => 3
  | .sessionClosed => 4

/-- The class byte of a status. -/
def Status.classCode : Status → Byte
  | .ok => 0
  | .rejected _ => 1
  | .station _ => 2
  | .link _ => 3
  | .ended _ => 4

/-- The detail byte of a status. -/
def Status.detailCode : Status → Byte
  | .ok => 0
  | .rejected d => d.code
  | .station d => d.code
  | .link d => d.code
  | .ended d => d.code

def StationState.code : StationState → Byte
  | .unused => 0
  | .probing => 1
  | .active => 2
  | .degraded => 3
  | .lost => 4
  | .mismatch => 5
  | .restarting => 6

def FaultKind.code : FaultKind → Byte
  | .stationLost => 1
  | .stationMismatch => 2
  | .stationError => 3
  | .lineFault => 4
  | .cycleOverrun => 5
  | .holdExpired => 6

/-- The fault kind a code names. -/
def FaultKind.ofCode (code : Nat) : Option FaultKind :=
  match code with
  | 1 => some .stationLost
  | 2 => some .stationMismatch
  | 3 => some .stationError
  | 4 => some .lineFault
  | 5 => some .cycleOverrun
  | 6 => some .holdExpired
  | _ => none

/-- The kinds that name a station 1..31; the others use station 0 (chapter The Fault List). -/
def FaultKind.isStationKind : FaultKind → Bool
  | .stationLost | .stationMismatch | .stationError => true
  | .lineFault | .cycleOverrun | .holdExpired => false

def EngineState.code : EngineState → Nat
  | .off => 0
  | .idle => 1
  | .config => 2
  | .run => 3
  | .closing => 4
  | .halted => 5

def HaltReason.code : HaltReason → Nat
  | .none => 0
  | .badDescriptor => 1
  | .fetchError => 2
  | .postError => 3

def ResetCause.code : ResetCause → Nat
  | .power => 1
  | .controller => 2

/-! ## Event kinds -/

def changeKind : Byte := 0x01
def stationStateKind : Byte := 0x02
def faultEventKind : Byte := 0x03
def safeKind : Byte := 0x04

/-! ## The completion record -/

/-- The 64 bytes of a posted record, with its phase flag (R179, R181). -/
def CompletionRecord.bytes (r : CompletionRecord) (phase : Bool) : List Byte :=
  [(if r.event then 2 else 1) ||| flagBit phase 7, r.kind]
    ++ halfBytes r.tag
    ++ [r.status.classCode, r.status.detailCode, r.station, byteOf r.data.length]
    ++ halfBytes (BitVec.ofNat 16 (r.index % 1024) ||| (if r.fromTransfer then 0x8000 else 0))
    ++ halfBytes (BitVec.ofNat 16 r.controlHead)
    ++ halfBytes (BitVec.ofNat 16 r.transferHead)
    ++ halfBytes r.count
    ++ wordBytes r.cycle
    ++ padTo 12 r.extra
    ++ padTo 32 r.data

/-! ## Fault reports -/

/-- The flags byte of a compact report (R134). -/
def FaultEntry.flags (e : FaultEntry) (removed : Bool) : Byte :=
  flagBit e.ended 0 ||| flagBit e.acknowledged 1 ||| flagBit removed 2

/-- The 8-byte compact report of an entry (R134). -/
def FaultEntry.report (e : FaultEntry) (position : Nat) (removed : Bool) : List Byte :=
  [e.kind.code, byteOf e.station, e.detail, e.flags removed, e.occurrences, byteOf position]
    ++ halfBytes (e.lastCycle.extractLsb' 0 16)

/-! ## Read data -/

/-- READ_STATION, 25 bytes (R47). -/
def Station.readData (e : Station) : List Byte :=
  let learned : List Byte :=
    match e.learned with
    | none => [0, 0, 0, 0, 0]
    | some i => halfBytes i.type ++ [i.inputSize, i.outputSize, i.firmware]
  [e.state.code, byteOf e.missCount]
    ++ learned
    ++ [flagBit e.inputsValid 0 ||| flagBit e.toggle 1 ||| flagBit e.resync 2
        ||| flagBit e.confirm.isSome 3 ||| flagBit e.change.pending 4 ||| flagBit e.learned.isSome 5]
    ++ wordBytes e.counters.pollsSent ++ wordBytes e.counters.goodReplies
    ++ halfBytes e.counters.timeouts ++ halfBytes e.counters.crcErrors
    ++ halfBytes e.counters.waits ++ halfBytes e.counters.refuses
    ++ [e.statusCode.zeroExtend 8]

/-- The number of FREE slots (R97). -/
def TransactionTable.freeCount (t : TransactionTable) : Nat :=
  (t.slots.toList.filter (fun x => x.state = .free)).length

/-- READ_STATS, 28 bytes (R70). A busy time of none is reported as 0 (R50). -/
def State.statsData (s : State) : List Byte :=
  wordBytes s.cs.cycle
    ++ wordBytes (s.cs.lastBusy.getD 0) ++ wordBytes (s.cs.minBusy.getD 0)
    ++ wordBytes (s.cs.maxBusy.getD 0) ++ wordBytes s.cs.overrunCount
    ++ [byteOf s.tt.freeCount, byteOf s.fl.entries.length]
    ++ halfBytes s.fl.overflow ++ wordBytes s.lc.unexpected

end Sys2Proof.Machine
end

