-- ==== Sys2Proof/Machine/FaultOps.lean ====
section
/-! DEFINITION. What a raise, an end of cause and an acknowledgement do to the fault list, and the FAULT
event that tells the host of it (R124 to R137, R139, R140). -/

namespace Sys2Proof.Machine

/-- The entry of a kind and station. -/
def FaultEntry.isFor (kind : FaultKind) (station : Nat) (e : FaultEntry) : Bool :=
  e.kind = kind && e.station = station

/-- The position of the entry of a kind and station (R124). -/
def FaultList.position (kind : FaultKind) (station : Nat) (f : FaultList) : Option Nat :=
  f.entries.findIdx? (FaultEntry.isFor kind station)

/-- R135: count one change and set the event pending unless its record is in staging. `carried` is what
the change leaves to carry; an overflowed raise leaves what was there. -/
def FaultList.change (carried : Option Carried) (f : FaultList) : FaultList :=
  { f with
    changes := satInc f.changes
    carried := carried.getD f.carried
    pending := f.pending || !f.inStaging }

/-- R125: a raise folded into an entry. -/
def FaultEntry.fold (detail : Byte) (cycle : Word) (e : FaultEntry) : FaultEntry :=
  { e with
    detail := detail
    ended := false
    acknowledged := false
    lastCycle := cycle
    occurrences := satInc e.occurrences }

/-- An entry of the list after a raise of a pair the list holds: the pair's entry is folded, the others
stay. -/
def FaultEntry.raised (kind : FaultKind) (station : Nat) (detail : Byte) (cycle : Word)
    (e : FaultEntry) : FaultEntry :=
  if e.isFor kind station then e.fold detail cycle else e

/-- R126: the entry a raise creates. -/
def FaultEntry.new (kind : FaultKind) (station : Nat) (detail : Byte) (cycle : Word) : FaultEntry where
  kind := kind
  station := station
  detail := detail
  ended := false
  acknowledged := false
  firstCycle := cycle
  lastCycle := cycle
  occurrences := 1

/-- R125, R126: a raise at cycle number `cycle`. -/
def FaultList.raise (kind : FaultKind) (station : Nat) (detail : Byte) (cycle : Word)
    (f : FaultList) : FaultList :=
  if f.entries.any (FaultEntry.isFor kind station) then
    { f with entries := f.entries.map (FaultEntry.raised kind station detail cycle) }.change
      (some (.entry kind station))
  else if f.entries.length < Config.faultListSize then
    { f with entries := f.entries ++ [FaultEntry.new kind station detail cycle] }.change
      (some (.entry kind station))
  else
    { f with overflow := satInc f.overflow }.change none

/-- R124: remove the entry at a position, `e` being that entry as it stands at its removal. -/
def FaultList.remove (position : Nat) (e : FaultEntry) (f : FaultList) : FaultList :=
  { f with entries := f.entries.eraseIdx position }.change (some (.removed e position))

/-- R127: an end of cause. -/
def FaultList.endCause (kind : FaultKind) (station : Nat) (f : FaultList) : FaultList :=
  match f.position kind station with
  | none => f
  | some i =>
    match f.entries[i]? with
    | none => f
    | some e =>
      if e.ended then f
      else if e.acknowledged then f.remove i { e with ended := true }
      else
        { f with entries := f.entries.set i { e with ended := true } }.change
          (some (.entry kind station))

/-- R130: acknowledge the entry of a kind and station. The answer holds the numbers of entries
acknowledged and removed (DEDUCED, log entry 11); `none` when the list holds no such entry. A removed entry
is carried as acknowledged (DEDUCED, log entry 12). -/
def FaultList.acknowledge (kind : FaultKind) (station : Nat) (f : FaultList) :
    Option (FaultList × Nat × Nat) :=
  match f.position kind station with
  | none => none
  | some i =>
    match f.entries[i]? with
    | none => none
    | some e =>
      if e.ended then some (f.remove i { e with acknowledged := true }, 1, 1)
      else if e.acknowledged then some (f, 0, 0)
      else
        some ({ f with entries := f.entries.set i { e with acknowledged := true } }.change
          (some (.entry kind station)), 1, 0)

/-- R131: one walk over the entries, front to back. `position` is the place of the next entry in the
list as it stands when it is visited. The answer holds the entries kept and the changes in order. -/
def ackWalk : List FaultEntry → Nat → List FaultEntry × List Carried
  | [], _ => ([], [])
  | e :: rest, position =>
    if e.ended then
      let w := ackWalk rest position
      (w.1, .removed { e with acknowledged := true } position :: w.2)
    else if e.acknowledged then
      let w := ackWalk rest (position + 1)
      (e :: w.1, w.2)
    else
      let w := ackWalk rest (position + 1)
      ({ e with acknowledged := true } :: w.1, .entry e.kind e.station :: w.2)

/-- R131: ACK_FAULT with ALL, with the numbers of entries that became acknowledged and that were removed
(DEDUCED from the chapter's worked sequence, log entry 11). -/
def FaultList.acknowledgeAll (f : FaultList) : FaultList × Nat × Nat :=
  let w := ackWalk f.entries 0
  (w.2.foldl (fun g c => g.change (some c)) { f with entries := w.1 },
    (f.entries.filter (fun e => !e.ended && !e.acknowledged)).length,
    (f.entries.filter (fun e => e.ended)).length)

/-- R140: one walk that ends the cause of every ACTIVE entry, front to back. -/
def endWalk : List FaultEntry → Nat → List FaultEntry × List Carried
  | [], _ => ([], [])
  | e :: rest, position =>
    if e.ended then
      let w := endWalk rest (position + 1)
      (e :: w.1, w.2)
    else if e.acknowledged then
      let w := endWalk rest position
      (w.1, .removed { e with ended := true } position :: w.2)
    else
      let w := endWalk rest (position + 1)
      ({ e with ended := true } :: w.1, .entry e.kind e.station :: w.2)

/-- R140: CLOSE_SESSION at the fault list. -/
def FaultList.endAll (f : FaultList) : FaultList :=
  let w := endWalk f.entries 0
  w.2.foldl (fun g c => g.change (some c)) { f with entries := w.1 }

/-- R139: the list when a session opens. -/
def FaultList.open (f : FaultList) : FaultList :=
  { f with entries := [], overflow := 0, pending := false, changes := 0, carried := .none }

/-- R136: what a FAULT record carries: its station byte, its kind-specific extra and its data. -/
def FaultList.eventFields (f : FaultList) : Byte × List Byte × List Byte :=
  let head (present : Bool) : List Byte :=
    [byteOf f.entries.length] ++ halfBytes f.overflow ++ [flagBit present 0]
  let carry (e : FaultEntry) (position : Nat) (removed : Bool) :=
    (byteOf e.station, head true ++ wordBytes e.firstCycle ++ wordBytes e.lastCycle,
      e.report position removed)
  match f.carried with
  | .none => (0, head false, [])
  | .removed e position => carry e position true
  | .entry kind station =>
    match f.position kind station with
    | none => (0, head false, [])
    | some i =>
      match f.entries[i]? with
      | none => (0, head false, [])
      | some e => carry e i false

/-- R136: the event state after its record has been made. -/
def FaultList.granted (f : FaultList) : FaultList :=
  { f with pending := false, changes := 0, carried := .none, inStaging := true }

/-- R137: the post of the FAULT record. -/
def FaultList.posted (f : FaultList) : FaultList :=
  { f with inStaging := false, pending := f.pending || f.changes ≠ 0 }

/-- R133, R134: the reports READ_FAULTS returns from a position: at most four, in list order. -/
def FaultList.reports (position : Nat) (f : FaultList) : List Byte :=
  (((f.entries.zipIdx).drop position).take 4).flatMap fun (e, i) => e.report i false

end Sys2Proof.Machine
end

