-- ==== Sys2Proof/Machine/Frames.lean ====
section
/-! DEFINITION. The link frame in both directions: characters, CRC, frame layout, timing in byte times
and the acceptance checks of a reply (R1 to R6, R13, R188). -/

namespace Sys2Proof.Machine

/-! ## Characters (R1) -/

/-- The ten line levels of a character as sent, `true` for mark: start bit, eight data bits with the
least significant first, stop bit. -/
def characterLevels (b : Byte) : List Bool :=
  [false] ++ (List.range 8).map (fun i => b.getLsbD i) ++ [true]

/-- The character the receiver makes of its nine samples after the start bit: eight data bits as
sampled, and a framing error when the stop bit samples at space. -/
def sampledCharacter (samples : List Bool) : Character where
  data := (List.range 8).foldl (fun acc i => acc ||| flagBit (samples.getD i true) i) 0
  framingError := !samples.getD 8 true

/-! ## Times (R2) -/

/-- A byte time in eighths of a microsecond. -/
def BitRate.byteEighths : BitRate → Nat
  | .k500 => 160
  | .m1 => 80
  | .m2 => 40
  | .m4 => 20
  | .m8 => 10

/-- `n` byte times, rounded up to the next whole microsecond. -/
def BitRate.byteTimes (rate : BitRate) (n : Nat) : Nat :=
  (n * rate.byteEighths + 7) / 8

/-- The inter-frame gap as loaded into a timer. -/
def LineParams.gapTime (p : LineParams) : Nat := p.rate.byteTimes p.gap

/-- The inter-byte limit and the run quiet time: two byte times. -/
def LineParams.twoByteTimes (p : LineParams) : Nat := p.rate.byteTimes 2

/-! ## CRC (R4) -/

/-- One shift of the CRC register. -/
def crcShift (c : Half) : Half :=
  if c.msb then (c <<< 1) ^^^ Config.crcPolynomial else c <<< 1

/-- Fold one byte into the CRC register. -/
def crcByte (c : Half) (b : Byte) : Half :=
  Nat.repeat crcShift 8 (c ^^^ (b ++ (0 : Byte)))

/-- The CRC of the bytes from the address byte to the end of the payload. -/
def crc (bytes : List Byte) : Half :=
  bytes.foldl crcByte 0xFFFF

/-! ## Master frames (R3, R5) -/

def FrameKind.code : FrameKind → Byte
  | .poll => 0x01
  | .ident => 0x02
  | .paramRead => 0x03
  | .paramWrite => 0x04
  | .restart => 0x05
  | .sync => 0x06

/-- The address byte: station address in bits 0-4, direction flag 5, toggle flag 6, reserved bit 0. -/
def addressByte (station : Nat) (reply toggle : Bool) : Byte :=
  byteOf (station % 32) ||| flagBit reply 5 ||| flagBit toggle 6

/-- The frame the LC builds for a send request (R3). -/
def SendRequest.frame (q : SendRequest) : List Byte :=
  let body := [addressByte q.address false q.toggle, q.kind.code, byteOf q.payload.length] ++ q.payload
  Config.delimiter :: body ++ halfBytes (crc body)

/-- What the LC records of a request it takes (R9). -/
def SendRequest.record (q : SendRequest) : ExchangeRecord where
  address := q.address
  kind := q.kind
  toggle := q.toggle
  dataLength := q.dataLength

/-- The POLL control byte: bit 0 the SAFE flag (R5, R74). -/
def pollControl (safe : Bool) : Byte := flagBit safe 0

/-! ## Replies (R6, R13, R188) -/

inductive ReplyKind where
  | data | done | wait | refuse
  deriving DecidableEq, Repr

/-- The reply kind a code names. -/
def ReplyKind.ofCode (code : Byte) : Option ReplyKind :=
  match code.toNat with
  | 0x81 => some .data
  | 0x82 => some .done
  | 0x83 => some .wait
  | 0x84 => some .refuse
  | _ => none

/-- A GOOD reply as handed to the CS: its kind and its payload. -/
inductive Reply where
  | data (payload : List Byte)
  | done
  | wait (hint : Byte)
  | refuse (reason : Byte)
  deriving DecidableEq, Repr

/-- The single outcome of an exchange (R14). -/
inductive LineOutcome where
  | good (reply : Reply)
  | failed (detail : LinkDetail)
  deriving DecidableEq, Repr

/-- R6: the payload length a reply of kind `r` must have to answer the exchange, if it may answer it. -/
def requiredLength (x : ExchangeRecord) (r : ReplyKind) : Option Nat :=
  match r, x.kind with
  | .data, .poll => x.dataLength
  | .data, .ident => x.dataLength
  | .data, .paramRead => x.dataLength
  | .done, .paramWrite => some 0
  | .done, .restart => some 0
  | .wait, .paramRead => some 1
  | .wait, .paramWrite => some 1
  | .wait, .restart => some 1
  | .refuse, .paramRead => some 1
  | .refuse, .paramWrite => some 1
  | .refuse, .restart => some 1
  | _, _ => none

/-- R188: a reserved value of the reply is not as required. -/
def reservedBad (x : ExchangeRecord) (r : ReplyKind) (addressByte : Byte) (payload : List Byte) : Bool :=
  addressByte.getLsbD 7
    || (r = .data && x.kind = .poll && (payload.headD 0).extractLsb' 4 4 ≠ 0)
    || (r = .refuse && payload.headD 0 = 0)

/-- The reply of a kind with its payload. -/
def replyOf (r : ReplyKind) (payload : List Byte) : Reply :=
  match r with
  | .data => .data payload
  | .done => .done
  | .wait => .wait (payload.headD 0)
  | .refuse => .refuse (payload.headD 0)

/-- The second to fifth checks of R13, with the reserved checks of R188 before the fifth, applied to a
reply that has ended by its length. `rx` is the reply from its delimiter on; `corrupt` says that one of
its characters had a framing error. -/
def acceptReply (x : ExchangeRecord) (rx : List Byte) (corrupt : Bool) : LineOutcome :=
  let addressByte := rx.getD 1 0
  let length := (rx.getD 3 0).toNat
  let payload := (rx.drop 4).take length
  let received := halfOf (rx.getD (4 + length) 0) (rx.getD (5 + length) 0)
  if corrupt ∨ crc ((rx.drop 1).take (3 + length)) ≠ received then .failed .crcError
  else if (addressByte.extractLsb' 0 5).toNat ≠ x.address ∨ !addressByte.getLsbD 5 then
    .failed .misaddressed
  else
    match ReplyKind.ofCode (rx.getD 2 0) with
    | none => .failed .malformed
    | some r =>
      if requiredLength x r ≠ some length ∨ reservedBad x r addressByte payload then .failed .malformed
      else if r = .done ∧ addressByte.getLsbD 6 ≠ x.toggle then .failed .toggleError
      else .good (replyOf r payload)

/-- The reply has ended by its length: the length byte is in, is 0..34, and so many bytes and the two CRC
bytes after it (R12). -/
def replyComplete (rx : List Byte) : Bool :=
  4 ≤ rx.length && (rx.getD 3 0).toNat ≤ Config.maxPayload && rx.length = 6 + (rx.getD 3 0).toNat

/-- The length byte is in and is above 34: further characters are discarded (R12). -/
def lengthTooLarge (rx : List Byte) : Bool :=
  4 ≤ rx.length && Config.maxPayload < (rx.getD 3 0).toNat

end Sys2Proof.Machine
end

