-- ==== Sys2Proof/Machine/Ops.lean ====
section
/-! DEFINITION. The named operations every block's rules are written with: reading and changing a station
entry and a slot, raising and ending faults, completing requests, confirms, slots that become DONE, and
the unexpected-traffic count. -/

namespace Sys2Proof.Machine

/-! ## Station entries -/

def State.station (s : State) (k : StationId) : Station := s.st.entries[k]

/-- Change one station entry. -/
def State.updStation (k : StationId) (f : Station → Station) (s : State) : State :=
  { s with st := { s.st with entries := s.st.entries.set k (f s.st.entries[k]) } }

/-- The 31 stations in ascending address order. -/
def allStations : List StationId := List.finRange 31

/-- A station is configured when its state is anything other than UNUSED. -/
def Station.configured (e : Station) : Bool := e.state ≠ .unused

/-- A station is in service when it is ACTIVE or DEGRADED. -/
def Station.inService (e : Station) : Bool := e.state = .active || e.state = .degraded

/-- R48: change the state of an entry. A change of state counts in the state report when the session's
STATION_STATE option is on and the new state is not UNUSED. -/
def Station.moveTo (stateEvents : Bool) (dest : StationState) (e : Station) : Station :=
  if e.state = dest then e
  else if stateEvents && dest ≠ .unused then
    { e with
      state := dest
      report := { e.report with
        transitions := satInc e.report.transitions
        pending := e.report.pending || !e.report.inStaging } }
  else { e with state := dest }

/-- `Station.moveTo` with the session's option. -/
def State.moveStation (k : StationId) (dest : StationState) (s : State) : State :=
  s.updStation k (Station.moveTo s.st.stateEvents dest)

/-! ## Faults -/

/-- A raise at the fault list, with the cycle number the CS holds (R123). -/
def State.raise (kind : FaultKind) (station : Nat) (detail : Byte) (s : State) : State :=
  { s with fl := s.fl.raise kind station detail s.cs.cycle }

/-- An end of cause at the fault list. -/
def State.endCause (kind : FaultKind) (station : Nat) (s : State) : State :=
  { s with fl := s.fl.endCause kind station }

/-! ## Completions -/

/-- The answer to the request in a record. -/
def Record.completion (r : Record) (ring : SubmissionRing) (index : Nat) (status : Status)
    (extra data : List Byte) : Completion where
  kind := r.kindByte
  tag := r.tag
  station := r.stationByte
  ring := ring
  index := index
  status := status
  extra := extra
  data := data

/-- R146: the control request in progress becomes READY with its completion. -/
def State.completeControl (status : Status) (extra data : List Byte) (s : State) : State :=
  match s.sc.request with
  | none => s
  | some q =>
    { s with sc := { s.sc with request := some { q with
        stage := .ready (q.record.completion .control q.index status extra data) } } }

/-- R146: the control request in progress is deferred: it becomes WAITING. -/
def State.deferControl (s : State) : State :=
  { s with sc := { s.sc with request := s.sc.request.map fun q => { q with stage := .waiting false } } }

/-- The exchange a WAITING control request waits for has ended and been delivered. -/
def Stage.lineReported : Stage → Stage
  | .waiting _ => .waiting true
  | .applying => .applying
  | .ready c => .ready c

/-- Tell the control request in progress that the exchange in hand has ended. -/
def State.reportLine (s : State) : State :=
  { s with sc := { s.sc with
      request := s.sc.request.map fun q => { q with stage := q.stage.lineReported } } }

/-- R175, R177: the taken transfer request completes at once: its completion is the non-slot completion
and joins the end of the transfer ready list. -/
def State.completeTransfer (t : TakenRecord) (status : Status) (data : List Byte) (s : State) : State :=
  { s with hqi := { s.hqi with
      taken := none
      nonSlot := some (t.record.completion .transfer t.index status [] data)
      readyList := s.hqi.readyList ++ [.nonSlot] } }

/-- The taken transfer request is answered later, by its slot or its confirm. -/
def State.dropTaken (s : State) : State :=
  { s with hqi := { s.hqi with taken := none } }

/-! ## Confirms (R79, R80) -/

/-- End a station's pending confirm with a status: its completion enters the confirm results list and,
at the same moment, the transfer ready list. Nothing happens when no confirm is pending. -/
def State.endConfirm (k : StationId) (status : Status) (s : State) : State :=
  match (s.station k).confirm with
  | none => s
  | some c =>
    let s := s.updStation k fun e =>
      { e with
        confirm := none
        results := e.results ++ [{ tag := c.tag, index := c.index, status := status }] }
    { s with hqi := { s.hqi with readyList := s.hqi.readyList ++ [.confirm k] } }

/-! ## Slots -/

def State.slot (s : State) (i : SlotId) : Slot := s.tt.slots[i]

/-- Change one slot. -/
def State.updSlot (i : SlotId) (f : Slot → Slot) (s : State) : State :=
  { s with tt := { s.tt with slots := s.tt.slots.set i (f s.tt.slots[i]) } }

def State.fifo (s : State) (k : StationId) : List SlotId := s.tt.fifos[k]

/-- Change one station's FIFO. -/
def State.updFifo (k : StationId) (f : List SlotId → List SlotId) (s : State) : State :=
  { s with tt := { s.tt with fifos := s.tt.fifos.set k (f s.tt.fifos[k]) } }

/-- R110: a result with which a doubtful write or restart is an uncertain failure. -/
def Status.uncertain : Status → Bool
  | .link _ => true
  | .ended .aborted => true
  | .ok | .rejected _ | .station _ | .ended _ => false

/-- R110: the slot's end with this status is an uncertain failure. -/
def Slot.uncertainEnd (status : Status) (x : Slot) : Bool :=
  (x.kind = some .write || x.kind = some .restart) && x.doubtful && status.uncertain

/-- R111: a slot as it becomes DONE. -/
def Slot.finish (status : Status) (data : List Byte) (length : Nat) (x : Slot) : Slot :=
  { x with
    state := .done
    data := data
    backoffTimer := none
    abortPending := false
    form := none
    result := some { status := status, dataLength := length } }

/-- The slot leaves its station's FIFO. -/
def State.leaveFifo (i : SlotId) (s : State) : State :=
  match (s.slot i).station with
  | none => s
  | some k => s.updFifo k (fun q => q.filter (· ≠ i))

/-- R110: ask the Station Table to set resync required when the end is an uncertain failure. -/
def State.noteUncertain (i : SlotId) (status : Status) (s : State) : State :=
  match (s.slot i).station with
  | none => s
  | some k =>
    if (s.slot i).uncertainEnd status then s.updStation k (fun e => { e with resync := true }) else s

/-- R111: a slot becomes DONE with its result and data: it leaves its FIFO, joins the done queue, and
sets resync required where R110 says so. -/
def State.slotDone (i : SlotId) (status : Status) (data : List Byte) (length : Nat) (s : State) : State :=
  let s := (s.noteUncertain i status).leaveFifo i
  let s := s.updSlot i (Slot.finish status data length)
  { s with tt := { s.tt with doneQueue := s.tt.doneQueue ++ [i] } }

/-- End a slot with a status and no data. -/
def State.endSlot (i : SlotId) (status : Status) (s : State) : State :=
  s.slotDone i status (s.slot i).data 0

/-- End the slot if it is QUEUED or in BACKOFF. -/
def State.endWaitingSlot (status : Status) (s : State) (i : SlotId) : State :=
  if (s.slot i).state = .queued ∨ (s.slot i).state = .backoff then s.endSlot i status else s

/-- R113: end a station's QUEUED and BACKOFF slots in FIFO order. -/
def State.endStationSlots (status : Status) (s : State) (k : StationId) : State :=
  (s.fifo k).foldl (State.endWaitingSlot status) s

/-! ## Unexpected traffic (R20) -/

/-- The detail of a count, capped at 255. -/
def capByte (n : Nat) : Byte := byteOf (min n 255)

/-- R20: count one unexpected event, and raise LINE_FAULT from the fourth of a cycle on. -/
def State.countUnexpected (s : State) : State :=
  let count := satInc s.lc.perCycle
  let s := { s with lc := { s.lc with unexpected := s.lc.unexpected + 1, perCycle := count } }
  if 4 ≤ count.toNat then s.raise .lineFault 0 (capByte count.toNat) else s

end Sys2Proof.Machine
end

