-- ==== Sys2Proof/Machine/StationOps.lean ====
section
/-! DEFINITION. What the Station Table does with the events that reach an entry: configuration, exchange
reports, identities, good and failed polls, loss, restart, stop, close and removal (R24 to R49, R73 to
R87). -/

namespace Sys2Proof.Machine

/-! ## Sets the CS asks for (R24) -/

/-- R24: the station is in the poll set. -/
def State.inPollSet (s : State) (k : StationId) : Bool :=
  (s.station k).inService && !(s.station k).removePending && s.sc.engine = .run

/-- R24: the head of the station's FIFO is a RESTART_STATION slot that has been attempted or put back. -/
def State.restartInProgress (s : State) (k : StationId) : Bool :=
  match (s.fifo k).head? with
  | none => false
  | some i =>
    (s.slot i).kind = some .restart && (0 < (s.slot i).attemptCount || 0 < (s.slot i).waitCount)

/-- R24: the station is a probe candidate. -/
def State.probeCandidate (s : State) (k : StationId) : Bool :=
  let e := s.station k
  !e.removePending
    && (e.state = .probing || e.state = .lost
      || (e.state = .mismatch && !s.restartInProgress k))

/-! ## Session start (R23) -/

/-- R23, R149: an entry when OPEN_SESSION succeeds. The in-staging marks and the confirm results list
are not part of the entry values and stay. -/
def Station.sessionStart (e : Station) : Station :=
  { Station.reset with
    change := .closed e.change.inStaging
    report := .idle e.report.inStaging
    results := e.results }

/-! ## CONFIGURE_STATION (R26) -/

/-- R26: set up an entry. The state is changed by the caller. -/
def Station.configure (p : StationParams) (safeImage : List Byte) (e : Station) : Station :=
  { e with
    expectedType := p.expectedType
    inputSize := p.inputSize
    outputSize := p.outputSize
    divisor := p.divisor
    missLimit := p.missLimit
    restartDelay := p.restartDelay
    safeImage := safeImage
    outputImage := safeImage
    inputImage := fill p.inputSize 0
    lastReported := fill p.inputSize 0
    watchMask := fill p.inputSize 0xFF
    inputsValid := false
    learned := none
    missCount := 0
    restartTimer := none
    statusCode := 0
    counters := .zero
    toggle := false
    resync := false
    removePending := false
    change := { e.change with pending := false, bits := fill p.inputSize 0, coalesce := 0 }
    confirm := none }

/-! ## Counters (R46) -/

/-- R46: the kind of an exchange as the counters see it. -/
def StationCounters.count (isPoll : Bool) (o : LineOutcome) (c : StationCounters) : StationCounters :=
  let c := if isPoll then { c with pollsSent := c.pollsSent + 1 } else c
  match o with
  | .good (.data _) => { c with goodReplies := c.goodReplies + 1 }
  | .good .done => { c with goodReplies := c.goodReplies + 1 }
  | .good (.wait _) => { c with waits := satInc c.waits }
  | .good (.refuse _) => { c with refuses := satInc c.refuses }
  | .failed .timeout => { c with timeouts := satInc c.timeouts }
  | .failed .crcError => { c with crcErrors := satInc c.crcErrors }
  | .failed .malformed => c
  | .failed .toggleError => c
  | .failed .misaddressed => c

/-- R46 at a station, which counts while it is configured (R27). -/
def State.countReport (k : StationId) (isPoll : Bool) (o : LineOutcome) (s : State) : State :=
  if (s.station k).configured then
    s.updStation k fun e => { e with counters := e.counters.count isPoll o }
  else s

/-! ## Identity (R28 to R30, R38) -/

/-- The identity a GOOD IDENT reply reports (R6). -/
def identityOf (payload : List Byte) : Identity where
  type := halfOf (payload.getD 0 0) (payload.getD 1 0)
  inputSize := payload.getD 2 0
  outputSize := payload.getD 3 0
  firmware := payload.getD 4 0

/-- R28: the number of the first field that differs, or `none` when the identity matches. -/
def Station.mismatch (i : Identity) (e : Station) : Option Nat :=
  if e.expectedType ≠ 0xFFFF ∧ e.expectedType ≠ i.type then some 1
  else if e.inputSize ≠ i.inputSize.toNat then some 2
  else if e.outputSize ≠ i.outputSize.toNat then some 3
  else none

/-- R28: what a GOOD IDENT records. -/
def Station.recordIdentity (i : Identity) (e : Station) : Station :=
  { e with learned := some i, toggle := false, resync := false }

/-- R29: a station enters service. -/
def State.enterService (k : StationId) (s : State) : State :=
  let was := (s.station k).state
  let s := (s.moveStation k .active).updStation k fun e => { e with missCount := 0, statusCode := 0 }
  if was = .lost then s.endCause .stationLost (address k)
  else if was = .mismatch then s.endCause .stationMismatch (address k)
  else s

/-- R30, R38: the entry as a differing identity leaves it in MISMATCH. -/
def State.enterMismatch (k : StationId) (s : State) : State :=
  (s.moveStation k .mismatch).updStation k fun e => { e with missCount := 0, inputsValid := false }

/-- R28 to R30, R38: a GOOD IDENT taken for a station, whether a probe or a resync. -/
def State.goodIdent (k : StationId) (i : Identity) (s : State) : State :=
  let s := s.updStation k (Station.recordIdentity i)
  match (s.station k).mismatch i, (s.station k).state with
  | none, .probing | none, .lost | none, .mismatch => s.enterService k
  | none, .active | none, .degraded | none, .restarting | none, .unused => s
  | some d, .lost =>
    ((s.enterMismatch k).endCause .stationLost (address k)).raise .stationMismatch (address k) (byteOf d)
  | some d, .probing | some d, .mismatch =>
    (s.enterMismatch k).raise .stationMismatch (address k) (byteOf d)
  | some d, .active | some d, .degraded =>
    ((s.enterMismatch k).endCause .stationError (address k)).raise .stationMismatch (address k) (byteOf d)
  | some _, .restarting | some _, .unused => s

/-- R27 to R31: a probe report. -/
def State.probeReport (k : StationId) (o : LineOutcome) (s : State) : State :=
  if (s.station k).configured then
    let s := s.countReport k false o
    match o with
    | .good (.data payload) => s.goodIdent k (identityOf payload)
    | .good .done | .good (.wait _) | .good (.refuse _) | .failed _ => s
  else s

/-! ## Polls in service (R32 to R35, R83) -/

/-- R83: the changed bits of a poll. -/
def Station.changedBits (inputs : List Byte) (e : Station) : List Byte :=
  andBytes (xorBytes inputs e.inputImage) e.watchMask

/-- R83: accumulate changed bits in the change report. -/
def ChangeReport.accumulate (bits : List Byte) (c : ChangeReport) : ChangeReport :=
  if anyNonzero bits then
    if anyNonzero c.bits then
      { c with bits := orBytes c.bits bits, coalesce := satInc c.coalesce }
    else
      { c with bits := orBytes c.bits bits, pending := c.pending || !c.inStaging }
  else c

/-- R32, R83: the input bytes of a good poll: the baseline at the first good poll after entry, change
detection afterwards. -/
def Station.takeInputs (inputs : List Byte) (e : Station) : Station :=
  if e.inputsValid then
    { e with
      change := e.change.accumulate (e.changedBits inputs)
      inputImage := inputs }
  else
    { e with inputImage := inputs, inputsValid := true, lastReported := inputs }

/-- R33: the status code of a good poll. -/
def State.statusCheck (k : StationId) (code : BitVec 4) (s : State) : State :=
  let old := (s.station k).statusCode
  let s :=
    if code ≠ 0 ∧ code ≠ old then s.raise .stationError (address k) (code.zeroExtend 8)
    else if code = 0 ∧ old ≠ 0 then s.endCause .stationError (address k)
    else s
  s.updStation k fun e => { e with statusCode := code }

/-- R78: judge a pending confirm against a good poll. -/
def State.judgeConfirm (k : StationId) (s : State) : State :=
  match (s.station k).confirm with
  | some c => if c.carried then s.endConfirm k .ok else s
  | none => s

/-- R32: a GOOD POLL report of a station in service; the payload is the status byte and the inputs. -/
def State.goodPoll (k : StationId) (payload : List Byte) (s : State) : State :=
  let s := (s.moveStation k .active).updStation k fun e => { e with missCount := 0 }
  let s := s.statusCheck k ((payload.headD 0).extractLsb' 0 4)
  let s := s.updStation k (Station.takeInputs payload.tail)
  s.judgeConfirm k

/-- R35: a station becomes LOST, with the link detail of the failed poll. -/
def State.stationLost (k : StationId) (d : LinkDetail) (s : State) : State :=
  let s := (s.moveStation k .lost).updStation k fun e =>
    { e with missCount := e.missLimit, inputsValid := false }
  let s := (s.endCause .stationError (address k)).raise .stationLost (address k) d.code
  (s.endStationSlots (.station .lost) k).endConfirm k (.station .lost)

/-- R34: a miss. -/
def State.pollMiss (k : StationId) (d : LinkDetail) (s : State) : State :=
  let count := (s.station k).missCount + 1
  if count < (s.station k).missLimit then
    (s.moveStation k .degraded).updStation k fun e => { e with missCount := count }
  else s.stationLost k d

/-- R27, R32, R34: a poll report. -/
def State.pollReport (k : StationId) (o : LineOutcome) (s : State) : State :=
  if (s.station k).configured then
    let s := s.countReport k true o
    if (s.station k).inService then
      match o with
      | .good (.data payload) => s.goodPoll k payload
      | .good .done | .good (.wait _) | .good (.refuse _) => s
      | .failed d => s.pollMiss k d
    else s
  else s

/-! ## Restart (R39, R40) -/

/-- R39: a RESTART_STATION done: the station enters RESTARTING and its restart timer starts. -/
def State.enterRestarting (k : StationId) (s : State) : State :=
  let was := (s.station k).state
  let s := (s.moveStation k .restarting).updStation k fun e =>
    { e with missCount := 0, inputsValid := false, restartTimer := some (e.restartDelay * 1000) }
  let s := s.endCause .stationError (address k)
  if was = .mismatch then s.endCause .stationMismatch (address k) else s

/-! ## Stop, close and removal (R41, R42, R45) -/

/-- End the three station causes of a station. -/
def State.endStationCauses (k : StationId) (s : State) : State :=
  ((s.endCause .stationLost (address k)).endCause .stationMismatch (address k)).endCause
    .stationError (address k)

/-- R41: STOP_CYCLES at one station. -/
def State.stopStation (s : State) (k : StationId) : State :=
  if (s.station k).configured then
    let s := (s.moveStation k .probing).updStation k fun e =>
      { e with restartTimer := none, missCount := 0, inputsValid := false }
    (s.endStationCauses k).endConfirm k (.ended .cyclesStopped)
  else s

/-- R42, R45: the entry of a station that returns to UNUSED: the timer is stopped, the reports are
dropped, and the transition makes no state report. After a close the other fields stay as they stood (R23). -/
def Station.vacate (e : Station) : Station :=
  { e with
    state := .unused
    restartTimer := none
    change := { e.change with pending := false, bits := fill e.inputSize 0, coalesce := 0 }
    report := { e.report with pending := false, transitions := 0 }
    inputsValid := false
    missCount := 0
    removePending := false }

/-- R23, R73: the entry with sizes 0 and its images, mask and accumulated bits empty. -/
def Station.emptied (e : Station) : Station :=
  { e with
    inputSize := 0
    outputSize := 0
    outputImage := []
    safeImage := []
    inputImage := []
    lastReported := []
    watchMask := []
    change := { e.change with bits := [] } }

/-- R42: CLOSE_SESSION at one station. -/
def State.closeStation (s : State) (k : StationId) : State :=
  if (s.station k).configured then
    (s.endConfirm k (.ended .sessionClosed)).updStation k Station.vacate
  else s

/-- R45: apply a removal: the slots end, the confirm ends, the causes end, the entry becomes UNUSED, with sizes 0
and empty images as R23 says of UNUSED (DEDUCED that this comes with the removal, log entry 27). -/
def State.removeStation (k : StationId) (s : State) : State :=
  let s := (s.endStationSlots (.station .removed) k).endConfirm k (.station .removed)
  (s.endStationCauses k).updStation k fun e => e.vacate.emptied

/-! ## Event records of a station (R49, R85, R86) -/

/-- R85: the net change count of a CHANGE record. -/
def Station.netChange (e : Station) : Nat :=
  ((andBytes (xorBytes e.inputImage e.lastReported) e.watchMask).map popCount).sum

/-- R85: the change report after its record has been made. -/
def Station.changeGranted (e : Station) : Station :=
  { e with
    lastReported := e.inputImage
    change := { pending := false, inStaging := true, bits := fill e.inputSize 0, coalesce := 0 } }

/-- R86: the post of a CHANGE record. -/
def Station.changePosted (e : Station) : Station :=
  { e with change := { e.change with
      inStaging := false
      pending := e.change.pending || anyNonzero e.change.bits } }

/-- R49: the state report after its record has been made. -/
def Station.reportGranted (e : Station) : Station :=
  { e with report := { pending := false, inStaging := true, transitions := 0 } }

/-- R49: the post of a STATION_STATE record. -/
def Station.reportPosted (e : Station) : Station :=
  { e with report := { e.report with
      inStaging := false
      pending := e.report.pending || e.report.transitions ≠ 0 } }

end Sys2Proof.Machine
end

