-- ==== Sys2Proof/Machine/SlotOps.lean ====
section
/-! DEFINITION. The Transaction Table's operations: accepting a remote request, eligibility, the next
attempt, and what the outcome of an attempt does to its slot (R97 to R118). -/

namespace Sys2Proof.Machine

/-! ## Acceptance (R99, R100) -/

/-- The lowest-numbered FREE slot. -/
def State.lowestFree (s : State) : Option SlotId :=
  (List.finRange 12).find? (fun i => (s.slot i).state = .free)

/-- R100: a slot as an accepted request fills it. -/
def Slot.filled (kind : RemoteKind) (t : TakenRecord) (k : StationId) : Slot where
  state := .queued
  kind := some kind
  tag := t.record.tag
  index := t.index
  station := some k
  remoteAddress := match kind with
    | .read | .write => some t.record.paramA
    | .restart => none
  count := match kind with
    | .read => t.record.readCount
    | .write => t.record.dataLength
    | .restart => 0
  data := match kind with
    | .write => t.record.data
    | .read | .restart => []
  attemptCount := 0
  waitCount := 0
  fitPass := 0
  form := none
  doubtful := false
  abortPending := false
  backoffTimer := none
  result := none

/-- R100: fill slot `i` and append it to the age list and to its station's FIFO. -/
def State.acceptInto (i : SlotId) (kind : RemoteKind) (t : TakenRecord) (k : StationId)
    (s : State) : State :=
  let s := (s.updSlot i fun _ => Slot.filled kind t k).updFifo k (fun q => q ++ [i])
  { s with tt := { s.tt with age := s.tt.age ++ [i] } }

/-- R99: the checks of a remote request, in order; `none` when all pass. -/
def State.remoteCheck (kind : RemoteKind) (t : TakenRecord) (k : StationId) (s : State) : Option Status :=
  let e := s.station k
  if s.sc.engine ≠ .run then some (.rejected .badState)
  else if !e.configured then some (.rejected .notConfigured)
  else if e.removePending then some (.station .notActive)
  else if !(e.inService || (kind = .restart && e.state = .mismatch)) then some (.station .notActive)
  else if kind = .read ∧ !inRange 1 32 t.record.readCount then some (.rejected .badParameter)
  else if (kind = .write ∧ !inRange 1 32 t.record.dataLength)
      ∨ (kind ≠ .write ∧ t.record.dataLength ≠ 0) then some (.rejected .badLength)
  else none

/-! ## Eligibility (R102, R103) -/

/-- R102: the slot is eligible. -/
def State.eligible (s : State) (i : SlotId) : Bool :=
  match (s.slot i).station with
  | none => false
  | some k =>
    (s.slot i).state = .queued
      && (s.fifo k).head? = some i
      && ((s.station k).inService
        || ((s.station k).state = .mismatch && (s.slot i).kind = some .restart))
      && !(s.station k).removePending
      && s.sc.engine = .run

/-- R103: the eligible slot with the earliest fetch sequence. -/
def State.oldestEligible (s : State) : Option SlotId :=
  s.tt.age.find? s.eligible

/-- R62, R103: the eligible slot with fit-pass count 4 and the earliest fetch sequence. -/
def State.forcedSlot (s : State) : Option SlotId :=
  s.tt.age.find? (fun i => s.eligible i && (s.slot i).fitPass = 4)

/-! ## The next attempt (R59, R104) -/

/-- R104: the form of the slot's next attempt. -/
def State.nextForm (s : State) (i : SlotId) : AttemptForm :=
  match (s.slot i).station with
  | none => .frame
  | some k =>
    if ((s.slot i).kind = some .write ∨ (s.slot i).kind = some .restart) ∧ (s.station k).resync then
      .resync
    else .frame

/-- R59: the request payload and the maximum reply payload of the slot's next attempt. -/
def State.attemptPayloads (s : State) (i : SlotId) : Nat × Nat :=
  match s.nextForm i with
  | .resync => (0, 5)
  | .frame =>
    match (s.slot i).kind with
    | some .read => (3, (s.slot i).count)
    | some .write => (2 + (s.slot i).data.length, 1)
    | some .restart => (0, 1)
    | none => (0, 0)

/-- R59: the worst-case attempt time of the slot. -/
def State.worstCase (s : State) (i : SlotId) : Nat :=
  match s.lc.params with
  | none => 0
  | some p =>
    p.gapTime + p.rate.byteTimes (6 + (s.attemptPayloads i).1) + p.responseTimeout
      + p.rate.byteTimes (6 + (s.attemptPayloads i).2)

/-- R104: what the CS hands the LC for the slot's next attempt (R5, R16). -/
def State.attemptRequest (s : State) (i : SlotId) (k : StationId) : SendRequest :=
  let x := s.slot i
  let toggle := (s.station k).toggle
  let remote := halfBytes (x.remoteAddress.getD 0)
  match s.nextForm i, x.kind with
  | .resync, _ =>
    { address := address k, kind := .ident, toggle := false, payload := [], dataLength := some 5 }
  | .frame, some .read =>
    { address := address k, kind := .paramRead, toggle := false,
      payload := remote ++ [byteOf x.count], dataLength := some x.count }
  | .frame, some .write =>
    { address := address k, kind := .paramWrite, toggle := toggle,
      payload := remote ++ x.data, dataLength := none }
  | .frame, some .restart | .frame, none =>
    { address := address k, kind := .restart, toggle := toggle, payload := [], dataLength := none }

/-- R104: the TT sets the slot ON_LINK as the CS takes its attempt into hand. -/
def Slot.takenIntoHand (form : AttemptForm) (x : Slot) : Slot :=
  { x with state := .onLink, fitPass := 0, form := some form }

/-! ## Outcomes (R105 to R110, R115 to R117) -/

/-- R105: the outcome completes the transaction: a FRAME attempt answered with the reply of its kind. -/
def Slot.completedBy (o : LineOutcome) (x : Slot) : Bool :=
  x.form = some .frame &&
    match o, x.kind with
    | .good (.data _), some .read => true
    | .good .done, some .write => true
    | .good .done, some .restart => true
    | _, _ => false

/-- R108: the outcome leaves a write or restart in doubt. -/
def Slot.doubtedBy (o : LineOutcome) (x : Slot) : Bool :=
  x.form = some .frame && (x.kind = some .write || x.kind = some .restart) &&
    match o with
    | .failed .misaddressed => false
    | .failed _ => true
    | .good _ => false

/-- R108: set the doubtful flag where the outcome calls for it. -/
def Slot.noteDoubt (o : LineOutcome) (x : Slot) : Slot :=
  { x with doubtful := x.doubtful || x.doubtedBy o }

/-- R106: the backoff a WAIT hint asks for, in microseconds. -/
def backoffTime (default : Nat) (hint : Byte) : Nat :=
  if hint = 0 then default else hint.toNat * 100

/-- R105: the slot's transaction is done: toggle flip, RESTARTING, and DONE OK with its data. -/
def State.attemptOk (i : SlotId) (k : StationId) (o : LineOutcome) (s : State) : State :=
  match (s.slot i).kind with
  | some .read =>
    match o with
    | .good (.data payload) => s.slotDone i .ok payload (s.slot i).count
    | .good .done | .good (.wait _) | .good (.refuse _) | .failed _ => s
  | some .write => (s.updStation k fun e => { e with toggle := !e.toggle }).endSlot i .ok
  | some .restart =>
    ((s.updStation k fun e => { e with toggle := !e.toggle }).enterRestarting k).endSlot i .ok
  | none => s

/-- The code a slot in hand ends with when its attempt does not complete it and an abort (R115), a removal
(R45, R116) or an ending code (R117) decides its result. -/
def State.decidedEnd (s : State) (i : SlotId) (k : StationId) : Option Status :=
  if (s.slot i).abortPending then some (.ended .aborted)
  else if (s.station k).removePending then some (.station .removed)
  else
    match s.tt.ending with
    | some .cyclesStopped => some (.ended .cyclesStopped)
    | some .sessionClosed => some (.ended .sessionClosed)
    | none => none

/-- Back to QUEUED with one more attempt counted. -/
def Slot.requeue (x : Slot) : Slot :=
  { x with state := .queued, form := none, attemptCount := x.attemptCount + 1 }

/-- R106 to R109: an outcome that does not complete the transaction, with no abort, removal or ending
code to decide the slot. `identityMatches` is the comparison of R28 for a GOOD resync. -/
def State.attemptGoesOn (i : SlotId) (o : LineOutcome) (identityMatches : Bool) (s : State) : State :=
  let x := s.slot i
  match o with
  | .good (.data _) | .good .done =>
    if identityMatches then s.updSlot i Slot.requeue else s.endSlot i (.station .mismatch)
  | .good (.wait hint) =>
    if s.tt.waitLimit < x.waitCount + 1 then
      (s.updSlot i fun x => { x with waitCount := x.waitCount + 1 }).endSlot i (.station .busy)
    else
      s.updSlot i fun x =>
        { x with
          state := .backoff
          form := none
          waitCount := x.waitCount + 1
          backoffTimer := some (backoffTime s.tt.defaultBackoff hint) }
  | .good (.refuse reason) => s.slotDone i (.station .refused) [reason] 1
  | .failed d =>
    if x.attemptCount + 1 < s.tt.attemptLimit then s.updSlot i Slot.requeue
    else
      (s.updSlot i fun x => { x with attemptCount := x.attemptCount + 1 }).endSlot i (.link d)

/-- R28, R38, R115: what a GOOD resync does at the Station Table. -/
def State.resyncAtStation (i : SlotId) (k : StationId) (o : LineOutcome) (s : State) : State :=
  match (s.slot i).form, o with
  | some .resync, .good (.data payload) => s.goodIdent k (identityOf payload)
  | _, _ => s

/-- R28: the comparison of a GOOD resync. -/
def State.identityMatches (k : StationId) (o : LineOutcome) (s : State) : Bool :=
  match o with
  | .good (.data payload) => ((s.station k).mismatch (identityOf payload)).isNone
  | .good .done | .good (.wait _) | .good (.refuse _) | .failed _ => false

/-- R115: the ABORT in progress completes, with the target's transfer ring index in its extra. -/
def State.answerAbort (aborted : Bool) (index : Nat) (status : Status) (s : State) : State :=
  if aborted then s.completeControl status (halfBytes (BitVec.ofNat 16 (index % 1024))) [] else s

/-- R104 to R110, R115 to R117: the outcome of the attempt in hand of slot `i` of station `k`. The ST's
counters come first (R46), then the outcome at the Station Table, then the slot. Where an ABORT, a removal or
an ending code decides the slot, its attempt and wait counts stay as they stood (DEDUCED, log entry 25). -/
def State.attemptReport (i : SlotId) (k : StationId) (o : LineOutcome) (s : State) : State :=
  let s := s.countReport k false o
  let aborted := (s.slot i).abortPending
  let index := (s.slot i).index
  let decided := s.decidedEnd i k
  if (s.slot i).completedBy o then
    (s.answerAbort aborted index (.rejected .tooLate)).attemptOk i k o
  else
    let same := s.identityMatches k o
    let s := (s.resyncAtStation i k o).updSlot i (Slot.noteDoubt o)
    match decided with
    | some status => (s.answerAbort aborted index .ok).endSlot i status
    | none => s.attemptGoesOn i o same

/-! ## ABORT (R118, R119) -/

/-- R118: the oldest unfinished slot with the tag. -/
def State.abortTarget (tag : Half) (s : State) : Option SlotId :=
  s.tt.age.find? fun i =>
    (s.slot i).tag = tag &&
      ((s.slot i).state = .queued || (s.slot i).state = .onLink || (s.slot i).state = .backoff)

/-! ## The slot's completion (R112) -/

/-- The request kind of a slot's kind. -/
def RemoteKind.request : RemoteKind → RequestKind
  | .read => .remoteRead
  | .write => .remoteWrite
  | .restart => .restartStation

/-- R112: the slot leaves the done queue and the age list and becomes FREE. -/
def State.freeSlot (i : SlotId) (s : State) : State :=
  let s := s.updSlot i fun x => { x with state := .free }
  { s with tt := { s.tt with
      doneQueue := s.tt.doneQueue.filter (· ≠ i)
      age := s.tt.age.filter (· ≠ i) } }

/-- The status an ending code stands for. -/
def EndingCode.status : EndingCode → Status
  | .cyclesStopped => .ended .cyclesStopped
  | .sessionClosed => .ended .sessionClosed

/-- R117: end every QUEUED and BACKOFF slot, stations ascending, each FIFO front first, and clear the
ending code. -/
def State.endAllSlots (status : Status) (s : State) : State :=
  let s := allStations.foldl (State.endStationSlots status) s
  { s with tt := { s.tt with ending := none } }

end Sys2Proof.Machine
end

