-- ==== Sys2Proof/Machine/CycleOps.lean ====
section
/-! DEFINITION. The Cycle Scheduler and its hand-over to the Line Controller: the phases of a cycle, the
acyclic window, cycle starts and overruns, and the statistics (R9, R15, R21, R50 to R72, R74). -/

namespace Sys2Proof.Machine

/-! ## The Line Controller takes a frame (R9, R15) -/

/-- R9: the LC takes a send request: the frame is built, the exchange recorded, any unexpected run ended,
and sending begins. -/
def LineController.takeRequest (q : SendRequest) (l : LineController) : LineController :=
  { l with
    state := .sending
    tx := q.frame
    exchange := some q.record
    held := none
    run := false
    quietTimer := none }

/-- R9: the CS asks the LC to send: at once in IDLE, held otherwise for the end of the gap. -/
def LineController.request (q : SendRequest) (l : LineController) : LineController :=
  if l.state = .idle then l.takeRequest q else { l with held := some q }

/-- R14, R15: the exchange is over: its record is cleared, the timers of the reply stop, and the gap
timer is loaded. -/
def LineController.enterGap (l : LineController) : LineController :=
  { l with
    state := .gap
    exchange := none
    responseTimer := none
    gapTimer := some (match l.params with
      | none => 0
      | some p => p.gapTime) }

/-- R52: take an exchange into hand and hand its frame to the LC. -/
def State.handOver (x : InHand) (q : SendRequest) (s : State) : State :=
  { s with
    cs := { s.cs with inHand := some x, exchanged := true }
    lc := s.lc.request q }

/-! ## Poll, SYNC, probe -/

/-- R74: the payload of a POLL to the station, as SAFE stands. -/
def State.pollPayload (s : State) (k : StationId) : List Byte :=
  pollControl s.hm.safe ::
    (if s.hm.safe then (s.station k).safeImage else (s.station k).outputImage)

/-- R74: the POLL the ST builds for a station. -/
def State.pollRequest (s : State) (k : StationId) : SendRequest where
  address := address k
  kind := .poll
  toggle := false
  payload := s.pollPayload k
  dataLength := some (1 + (s.station k).inputSize)

/-- R74, R77: a POLL built with SAFE clear carries the pending confirm. -/
def Station.markCarried (safe : Bool) (e : Station) : Station :=
  if safe then e else { e with confirm := e.confirm.map fun c => { c with carried := true } }

/-- R56: build a POLL and hand it over. -/
def State.sendPoll (k : StationId) (s : State) : State :=
  let s := (s.updStation k (Station.markCarried s.hm.safe)).handOver (.poll k) (s.pollRequest k)
  { s with cs := { s.cs with phase := .poll, pollsSent := true } }

/-- R57: the SYNC of the current cycle. -/
def State.syncRequest (s : State) : SendRequest where
  address := 0
  kind := .sync
  toggle := false
  payload := [s.cs.cycle.extractLsb' 0 8]
  dataLength := none

/-- R58: the IDENT of a probe. -/
def identRequest (k : StationId) : SendRequest where
  address := address k
  kind := .ident
  toggle := false
  payload := []
  dataLength := some 5

/-- R58: the addresses in the order the probe search takes them: above the pointer, then from 1 up. -/
def probeOrder (pointer : Nat) : List StationId :=
  allStations.filter (fun k => pointer < address k) ++
    allStations.filter (fun k => address k ≤ pointer)

/-- R58: the next probe candidate after the pointer. -/
def State.nextProbe (s : State) : Option StationId :=
  (probeOrder s.cs.probePointer).find? s.probeCandidate

/-! ## The acyclic window (R60 to R63) -/

/-- R52, R60: take a slot's attempt into hand. Attempts are counted in both period modes (DEDUCED from R50,
log entry 13). -/
def State.takeAttempt (i : SlotId) (s : State) : State :=
  match (s.slot i).station with
  | none => s
  | some k =>
    let q := s.attemptRequest i k
    let s := (s.updSlot i (Slot.takenIntoHand (s.nextForm i))).handOver (.attempt i k) q
    { s with cs := { s.cs with attempts := satInc s.cs.attempts } }

/-- R64: the activity end time once the CS makes no further exchange: the moment of the last report, and the
start time in a cycle that made no exchange. -/
def Scheduler.settleEnd (c : Scheduler) : Scheduler :=
  { c with activityEnd := some (c.activityEnd.getD c.startTime) }

/-- R64, R68: the cycle's activity has ended and it waits for the next start. A free-run cycle that made
no exchange loads the empty-cycle gap timer. -/
def State.endActivity (s : State) : State :=
  { s with cs := { s.cs.settleEnd with
      phase := .awaitStart
      emptyGapTimer :=
        if s.cs.mode = .freeRun ∧ !s.cs.exchanged then
          some (match s.lc.params with
            | none => 0
            | some p => p.gapTime)
        else s.cs.emptyGapTimer } }

/-- R60: the fit test of a slot. -/
def State.fits (s : State) (i : SlotId) : Bool :=
  match s.cs.due with
  | none => false
  | some due => s.now + s.worstCase i ≤ due

/-- R60, R64: the window's next attempt in FIXED mode. With no eligible slot the window stays open and the
activity has ended, with nothing in hand, until a slot becomes eligible. -/
def State.considerFixed (s : State) : State :=
  match s.oldestEligible with
  | none => { s with cs := s.cs.settleEnd }
  | some i =>
    if s.fits i then s.takeAttempt i
    else (s.updSlot i fun x => { x with fitPass := min (x.fitPass + 1) 4 }).endActivity

/-- R63: the window's next attempt in FREE_RUN mode. -/
def State.considerFreeRun (s : State) : State :=
  if s.cs.attempts.toNat < s.cs.budget then
    match s.oldestEligible with
    | none => s.endActivity
    | some i => s.takeAttempt i
  else s.endActivity

/-- R60, R63, R65: the window's next attempt. In an overrunning cycle none is made. -/
def State.consider (s : State) : State :=
  if s.cs.overrun then s.endActivity
  else
    match s.cs.mode with
    | .fixed => s.considerFixed
    | .freeRun => s.considerFreeRun

/-- R62: on entering the window in FIXED mode, the forced attempt comes first. -/
def State.enterWindow (s : State) : State :=
  let s := { s with cs := { s.cs with phase := .window } }
  if s.cs.overrun ∨ s.cs.mode = .freeRun then s.consider
  else
    match s.forcedSlot with
    | some i => s.takeAttempt i
    | none => s.consider

/-- R58, R65: the probe slot. -/
def State.enterProbe (s : State) : State :=
  if s.cs.overrun then s.enterWindow
  else
    match s.nextProbe with
    | none => s.enterWindow
    | some k =>
      let s := s.handOver (.probe k) (identRequest k)
      { s with cs := { s.cs with phase := .probe, probePointer := address k } }

/-- R57: the SYNC, if the option is on and a POLL was sent. -/
def State.enterSync (s : State) : State :=
  if s.cs.syncOption ∧ s.cs.pollsSent then
    let s := s.handOver .sync s.syncRequest
    { s with cs := { s.cs with phase := .sync } }
  else s.enterProbe

/-- R56: the rest of the poll phase: stations that have left the poll set are passed over. The poll list holds
what is still to be polled: a station leaves it as its turn is taken (DESIGN CHOICE, log entry 24). -/
def State.pollRest : List StationId → State → State
  | [], s => ({ s with cs := { s.cs with pollList := [] } } : State).enterSync
  | k :: rest, s =>
    if s.inPollSet k then ({ s with cs := { s.cs with pollList := rest } } : State).sendPoll k
    else State.pollRest rest s

/-- R71: cycles go on only in RUN with no stop taken. -/
def State.cycling (s : State) : Bool := s.sc.engine = .run && s.sc.teardown = .none

/-- R52: the CS's next decision, taken when the exchange in hand has ended. -/
def State.continueCycle (s : State) : State :=
  if s.cycling then
    match s.cs.phase with
    | .poll => State.pollRest s.cs.pollList s
    | .sync => s.enterProbe
    | .probe => s.enterWindow
    | .window => s.consider
    | .stopped | .awaitStart => s
  else s

/-- R61, R102: the TT reports that a slot may have become eligible. An open FIXED window with no exchange
in hand considers it. -/
def State.reportEligible (s : State) : State :=
  if s.cycling ∧ s.cs.phase = .window ∧ s.cs.inHand = none ∧ s.cs.mode = .fixed then s.consider else s

/-! ## Cycle start (R21, R53 to R55, R67, R69) -/

/-- R69: the busy time of the cycle that ends, saturating at 0FFFFFFFFh (R50). -/
def Scheduler.busyTime (c : Scheduler) : Word :=
  BitVec.ofNat 32 (min (c.activityEnd.getD c.startTime - c.startTime) (2 ^ 32 - 1))

/-- R69: record the busy time of the cycle that ends. -/
def Scheduler.recordBusy (c : Scheduler) : Scheduler :=
  let b := c.busyTime
  { c with
    lastBusy := some b
    minBusy := match c.minBusy with
      | none => some b
      | some m => some (if b < m then b else m)
    maxBusy := match c.maxBusy with
      | none => some b
      | some m => some (if m < b then b else m) }

/-- R67, R69: the cycle that ends is recorded, and one that did not overrun breaks the run. -/
def State.closeCycle (s : State) : State :=
  let s := { s with cs := s.cs.recordBusy }
  if s.cs.overrun then s
  else ({ s with cs := { s.cs with runLength := 0 } } : State).endCause .cycleOverrun 0

/-- R21: the LC's notice of a cycle start. -/
def State.lineCycleNotice (s : State) : State :=
  let s := if s.lc.perCycle = 0 then s.endCause .lineFault 0 else s
  { s with lc := { s.lc with perCycle := 0 } }

/-- R55: a station with poll divisor `d` is due in cycle `n`. -/
def pollDue (d : Nat) (n : Word) (k : StationId) : Bool := n.toNat % d = address k % d

/-- R55: the poll list fixed at a cycle start. -/
def State.duePolls (s : State) : List StationId :=
  allStations.filter fun k => s.inPollSet k && pollDue (s.station k).divisor s.cs.cycle k

/-- R54: times, flags and counts of the cycle that starts now. -/
def Scheduler.begin (now : Nat) (c : Scheduler) : Scheduler :=
  { c with
    startTime := now
    due := match c.mode with
      | .fixed => some (now + c.period)
      | .freeRun => none
    cycleTimer := match c.mode with
      | .fixed => some c.period
      | .freeRun => some Config.freeRunMinimum
    emptyGapTimer := none
    overrun := false
    attempts := 0
    pollsSent := false
    activityEnd := none
    exchanged := false
    phase := .poll }

/-- R54, from the setting of the start time on: the LC is notified, the poll list fixed, and POLL
entered. -/
def State.beginCycle (s : State) : State :=
  let s := ({ s with cs := s.cs.begin s.now } : State).lineCycleNotice
  State.pollRest s.duePolls s

/-- R54: the start of a cycle after cycle 0. -/
def State.nextCycle (s : State) : State :=
  let s := s.closeCycle
  ({ s with cs := { s.cs with cycle := s.cs.cycle + 1 } } : State).beginCycle

/-- R53: the start of cycle 0. -/
def State.firstCycle (s : State) : State :=
  ({ s with cs := { s.cs with cycle := 0, probePointer := 0, runLength := 0 } } : State).beginCycle

/-! ## When a cycle starts (R64 to R68) -/

/-- R64: the cycle's activity has ended. -/
def State.activityEnded (s : State) : Bool :=
  s.cs.phase = .awaitStart || (s.cs.phase = .window && s.cs.inHand = none)

/-- R65, R67: the cycle overruns. -/
def State.overruns (s : State) : State :=
  let length := satInc s.cs.runLength
  let s := { s with cs := { s.cs with
    overrun := true
    overrunCount := s.cs.overrunCount + 1
    runLength := length
    cycleTimer := none } }
  if 3 ≤ length.toNat then s.raise .cycleOverrun 0 (capByte length.toNat) else s

/-- The due time has arrived and is not yet taken. -/
def State.dueNow (s : State) : Bool :=
  s.cycling && s.cs.mode = .fixed && s.cs.cycleTimer = some 0

/-- R64, R65: the due time arrives. -/
def State.onDue (s : State) : State :=
  if s.dueNow then
    if s.activityEnded then s.nextCycle else s.overruns
  else s

/-- R68: the first of the two moments has passed: the gap after the last exchange, or after the start of
a cycle that made none. -/
def State.gapMomentPassed (s : State) : Bool :=
  if s.cs.exchanged then s.lc.state = .idle else s.cs.emptyGapTimer = none

/-- R68: a free-run cycle in AWAIT_START both of whose moments have passed. -/
def State.freeRunStart (s : State) : Bool :=
  s.cycling && s.cs.mode = .freeRun && s.cs.phase = .awaitStart && s.cs.cycleTimer = none
    && s.gapMomentPassed

/-- R66, R68: the LC enters IDLE and a cycle waits for that: the start after an overrun, or the free-run
start. -/
def State.startsAtIdle (s : State) : Bool :=
  s.cycling && s.cs.phase = .awaitStart
    && ((s.cs.mode = .fixed && s.cs.overrun)
      || (s.cs.mode = .freeRun && s.cs.exchanged && s.cs.cycleTimer = none))

/-- R68: the free-run minimum expires. -/
def State.onFreeRunMinimum (s : State) : State :=
  if s.cycling ∧ s.cs.mode = .freeRun ∧ s.cs.cycleTimer = some 0 then
    let s := { s with cs := { s.cs with cycleTimer := none } }
    if s.freeRunStart then s.nextCycle else s
  else s

/-- R68: the empty-cycle gap timer expires. -/
def State.onEmptyGap (s : State) : State :=
  if s.cs.emptyGapTimer = some 0 then
    let s := { s with cs := { s.cs with emptyGapTimer := none } }
    if s.freeRunStart then s.nextCycle else s
  else s

/-- R15: the gap timer expires: the LC enters IDLE and takes a held request; with none, the CS sees the
line free. -/
def State.onGapEnd (s : State) : State :=
  if s.lc.state = .gap ∧ s.lc.gapTimer = some 0 then
    match s.lc.held with
    | some q =>
      { s with lc := ({ s.lc with state := .idle, gapTimer := none } : LineController).takeRequest q }
    | none =>
      let s := { s with lc := { s.lc with state := .idle, gapTimer := none } }
      if s.startsAtIdle then s.nextCycle else s
  else s

/-! ## Stopping (R71, R69) -/

/-- R71: STOP_CYCLES or CLOSE_SESSION reaches the CS. -/
def Scheduler.haltTimers (c : Scheduler) : Scheduler :=
  { c with cycleTimer := none, emptyGapTimer := none }

/-- R71: the CS enters STOPPED once the line is clear. -/
def Scheduler.stop (c : Scheduler) : Scheduler :=
  { c with
    phase := .stopped
    due := none
    cycleTimer := none
    emptyGapTimer := none
    pollList := []
    pollsSent := false
    runLength := 0
    overrun := false }

/-- R69: the statistics are cleared. -/
def Scheduler.clearStats (c : Scheduler) : Scheduler :=
  { c with lastBusy := none, minBusy := none, maxBusy := none, overrunCount := 0 }

/-! ## The end of an exchange (R14, R52) -/

/-- R52: the CS delivers the report of the exchange in hand to its owner. -/
def State.deliver (x : InHand) (o : LineOutcome) (s : State) : State :=
  match x with
  | .poll k => s.pollReport k o
  | .probe k => s.probeReport k o
  | .attempt i k => s.attemptReport i k o
  | .sync => s

/-- R52: the CS lets go of the exchange in hand; the activity of the cycle has lasted until now. -/
def Scheduler.letGo (now : Nat) (c : Scheduler) : Scheduler :=
  { c with inHand := none, activityEnd := some now }

/-- R14: the outcome of the exchange on the line is fixed. The CS delivers it, a MISADDRESSED one is also
counted as unexpected traffic, the LC enters GAP, a request that waits for the line is told, and the CS
decides what comes next. The order of delivery and count is a DESIGN CHOICE (log entry 10). -/
def State.endExchange (o : LineOutcome) (s : State) : State :=
  match s.cs.inHand with
  | none => { s with lc := s.lc.enterGap }
  | some x =>
    let s := ({ s with cs := s.cs.letGo s.now } : State).deliver x o
    let s := if o = .failed .misaddressed then s.countUnexpected else s
    let s := { s with lc := s.lc.enterGap }
    s.reportLine.continueCycle

/-- R10: the last CRC byte of a frame has been sent. -/
def State.onFrameSent (s : State) : State :=
  if s.lc.state = .sending then
    match s.lc.exchange with
    | some x =>
      if x.kind = .sync then
        let s := { s with lc := s.lc.enterGap, cs := s.cs.letGo s.now }
        s.reportLine.continueCycle
      else
        { s with lc := { s.lc with
            state := .awaiting
            responseTimer := s.lc.params.map (·.responseTimeout)
            rx := []
            corrupt := false } }
    | none => s
  else s

end Sys2Proof.Machine
end

