-- ==== Sys2Proof/Machine/Flags.lean ====
section
/-! DEFINITION. What is computed from the state and read outside the part: ring counts, the interrupt
condition and INT, the STATUS word, every register read, and the line pins (R1, R7, R138, R164, R166,
R180, R184). -/

namespace Sys2Proof.Machine

/-! ## Ring counts (R164) -/

/-- `head` to `tail` around a ring of `count` entries. -/
def span (count head tail : Nat) : Nat := (tail + count - head) % count

/-- The index after `i` in a ring of `count` entries. -/
def nextIndex (count i : Nat) : Nat := (i + 1) % count

/-- Records pending in the control ring. -/
def HostQueue.controlPending (h : HostQueue) : Nat :=
  match h.attachment with
  | none => 0
  | some a => span a.control.count h.controlHead h.controlTail

/-- Records pending in the transfer ring. -/
def HostQueue.transferPending (h : HostQueue) : Nat :=
  match h.attachment with
  | none => 0
  | some a => span a.transfer.count h.transferHead h.transferTail

/-- Records pending in a submission ring. -/
def HostQueue.pendingIn (h : HostQueue) : SubmissionRing → Nat
  | .control => h.controlPending
  | .transfer => h.transferPending

/-- Unread records in the completion ring. -/
def HostQueue.unread (h : HostQueue) : Nat :=
  match h.attachment with
  | none => 0
  | some a => span a.completion.count h.completionHead h.completionTail

/-- R180: the completion ring is full. -/
def HostQueue.ringFull (h : HostQueue) : Bool :=
  match h.attachment with
  | none => true
  | some a => nextIndex a.completion.count h.completionTail = h.completionHead

/-! ## Engine gates -/

/-- R143: the HQI fetches, grants and posts. -/
def EngineState.serving : EngineState → Bool
  | .idle | .config | .run | .closing => true
  | .off | .halted => false

/-- R168: rings are attached and the index registers are judged. -/
def EngineState.attached : EngineState → Bool
  | .idle | .config | .run | .closing | .halted => true
  | .off => false

/-! ## Interrupt (R184) -/

/-- The interrupt condition; INT pending in STATUS shows it. -/
def State.intPending (s : State) : Bool :=
  s.sc.engine = .halted
    || s.hqi.threshold ≤ s.hqi.unread
    || (1 ≤ s.hqi.unread && s.hqi.delayReached)

/-- The INT line. -/
def State.int (s : State) : Bool := s.intPending && s.hqi.intEnable

/-! ## STATUS and the register window (R138, R166) -/

/-- Any of the three index error marks is set. -/
def HostQueue.indexError (h : HostQueue) : Bool :=
  h.controlTailMark || h.transferTailMark || h.completionHeadMark

/-- The kind code of the entry at position 0, or 0. -/
def FaultList.headKind (f : FaultList) : Nat :=
  match f.entries with
  | [] => 0
  | e :: _ => e.kind.code.toNat

/-- The station of the entry at position 0, or 0. -/
def FaultList.headStation (f : FaultList) : Nat :=
  match f.entries with
  | [] => 0
  | e :: _ => e.station

/-- A field of a register: `n` from bit `position` on. -/
def field (n position : Nat) : Word := BitVec.ofNat 32 n <<< position

/-- A one-bit field. -/
def bitField (b : Bool) (position : Nat) : Word := field b.toNat position

/-- The STATUS register. -/
def State.status (s : State) : Word :=
  field s.sc.engine.code 0 ||| bitField s.hm.safe 3 ||| field s.sc.haltReason.code 4
    ||| field s.sc.resetCause.code 6 ||| field (s.fl.entries.length % 32) 8
    ||| bitField (s.fl.overflow ≠ 0) 13 ||| bitField s.hqi.indexError 14
    ||| bitField s.intPending 15 ||| field (s.fl.headKind % 8) 16 ||| field (s.fl.headStation % 32) 24

/-- The CONTROL register. -/
def State.controlWord (s : State) : Word := bitField s.hqi.enable 0 ||| bitField s.hqi.intEnable 1

/-- R165, R166: what a read of a register returns. -/
def State.readRegister (s : State) : Register → Word
  | .id => Config.idWord
  | .control => s.controlWord
  | .status => s.status
  | .ringBase => s.hqi.ringBase
  | .controlTail => field (s.hqi.controlTail % 1024) 0
  | .transferTail => field (s.hqi.transferTail % 1024) 0
  | .completionHead => field (s.hqi.completionHead % 1024) 0
  | .controlHead => field (s.hqi.controlHead % 1024) 0
  | .transferHead => field (s.hqi.transferHead % 1024) 0
  | .completionTail => field (s.hqi.completionTail % 1024) 0

/-! ## Line pins (R1, R7, R9, R10, R22) -/

/-- DE: asserted while the LM31 transmits. -/
def LineController.driverEnable (l : LineController) : Bool := l.state = .sending

/-- The receiver is enabled. -/
def LineController.receiverEnabled (l : LineController) : Bool :=
  match l.state with
  | .idle | .awaiting | .receiving | .gap => true
  | .off | .sending => false

/-- The levels the LC sends on TX for the frame in its transmit buffer, character after character; when
DE is deasserted TX is held at mark. -/
def LineController.txLevels (l : LineController) : List Bool :=
  if l.driverEnable then l.tx.flatMap characterLevels else [true]

end Sys2Proof.Machine
end

