-- ==== Sys2Proof/Machine/QueueOps.lean ====
section
/-! DEFINITION. The Host Queue Interface: register writes, rings, fetch and take, the staging arbiter,
posting and the age timer (R144, R162 to R187). -/

namespace Sys2Proof.Machine

/-! ## Resets (R161 to R163) -/

/-- A reset of either kind: every block at its reset values. The commands that wait are not the part's
(DESIGN CHOICE, log entry 7). -/
def State.resetNow (cause : ResetCause) (s : State) : State :=
  { State.resetBy cause with pending := s.pending }

/-! ## CONTROL (R144, R162, R184) -/

/-- R144: the enabling write: the halt reason is cleared, ENABLE reads 1, INT_ENABLE is taken and the
descriptor read starts at RING_BASE. -/
def State.startEnable (intEnable : Bool) (s : State) : State :=
  { s with
    sc := { s.sc with haltReason := .none, descriptorRead := some s.hqi.ringBase }
    hqi := { s.hqi with enable := true, intEnable := intEnable } }

/-- R144: a write that leaves ENABLE as it reads changes only INT_ENABLE. -/
def State.setIntEnable (intEnable : Bool) (s : State) : State :=
  { s with hqi := { s.hqi with intEnable := intEnable } }

/-- R144, R162: a write to CONTROL. -/
def State.writeControl (value : Word) (s : State) : State :=
  match value.getLsbD 0, s.hqi.enable with
  | true, false => s.startEnable (value.getLsbD 1)
  | false, true => s.resetNow .controller
  | true, true | false, false => s.setIntEnable (value.getLsbD 1)

/-! ## The index registers (R168 to R170) -/

/-- R170: the tail write leaves nothing pending: a held transfer copy is discarded, and a copy in flight
is discarded when its read ends. -/
def HostQueue.withdraw (ring : SubmissionRing) (h : HostQueue) : HostQueue :=
  if h.pendingIn ring = 0 then
    { h with
      heldCopy := if ring = .transfer then none else h.heldCopy
      fetch := h.fetch.map fun f => if f.ring = ring then { f with withdrawn := true } else f }
  else h

/-- R168, R170: a write to CONTROL_TAIL. -/
def HostQueue.writeControlTail (count : Nat) (value : Word) (h : HostQueue) : HostQueue :=
  if value.toNat < count then
    ({ h with controlTail := value.toNat, controlTailMark := false } : HostQueue).withdraw .control
  else { h with controlTailMark := true }

/-- R168, R170: a write to TRANSFER_TAIL. -/
def HostQueue.writeTransferTail (count : Nat) (value : Word) (h : HostQueue) : HostQueue :=
  if value.toNat < count then
    ({ h with transferTail := value.toNat, transferTailMark := false } : HostQueue).withdraw .transfer
  else { h with transferTailMark := true }

/-- R169, R185: a valid COMPLETION_HEAD write; one that empties the ring stops the age timer and ends
delay reached. -/
def HostQueue.moveCompletionHead (value : Nat) (h : HostQueue) : HostQueue :=
  let h := { h with completionHead := value, completionHeadMark := false }
  if h.unread = 0 then { h with ageTimer := none, delayReached := false } else h

/-- R168, R169: a write to COMPLETION_HEAD. -/
def HostQueue.writeCompletionHead (count : Nat) (value : Word) (h : HostQueue) : HostQueue :=
  if value.toNat < count ∧ span count h.completionHead value.toNat ≤ h.unread then
    h.moveCompletionHead value.toNat
  else { h with completionHeadMark := true }

/-- Apply `f` to the HQI with the attachment, in a state in which the index registers are judged; in OFF
the write is ignored (R168). -/
def State.judgedWrite (f : RingAttachment → HostQueue → HostQueue) (s : State) : State :=
  if s.sc.engine.attached then
    match s.hqi.attachment with
    | none => s
    | some a => { s with hqi := f a s.hqi }
  else s

/-! ## The slave port (R165) -/

/-- What a write to a register does. A read-only register keeps its contents. -/
def State.registerEffect (r : Register) (value : Word) (s : State) : State :=
  match r with
  | .control => s.writeControl value
  | .ringBase => { s with hqi := { s.hqi with ringBase := value } }
  | .controlTail => s.judgedWrite fun a h => h.writeControlTail a.control.count value
  | .transferTail => s.judgedWrite fun a h => h.writeTransferTail a.transfer.count value
  | .completionHead => s.judgedWrite fun a h => h.writeCompletionHead a.completion.count value
  | .id | .status | .controlHead | .transferHead | .completionTail => s

/-- A write to a register, answered without error. -/
def State.writeRegister (r : Register) (value : Word) (s : State) : State :=
  { s.registerEffect r value with bus := .written }

/-- R161, R165: an access while RESET_N is held low: the power-on reset is being taken, a read returns 0 and a
write has no effect. An access that is answered with an error elsewhere is answered so here too (DESIGN CHOICE,
log entry 7). -/
def State.accessInReset (a : SlaveAccess) (s : State) : State :=
  { s.resetNow .power with bus := if a.good then (if a.write then .written else .read 0) else .error }

/-- R165: an access with RESET_N high: a good one reaches its register, a bad one is answered with an error
response. -/
def State.accessInService (a : SlaveAccess) (s : State) : State :=
  match (if a.good then Register.atOffset a.offset else none) with
  | some r =>
    if a.write then s.writeRegister r a.value else { s with bus := .read (s.readRegister r) }
  | none => { s with bus := .error }

/-- An access of any shape on the slave port. One outside the port's range is not the part's (DESIGN CHOICE,
log entry 6). -/
def State.slaveAccess (a : SlaveAccess) (s : State) : State :=
  if a.offset < Config.portRange then
    if a.inReset then s.accessInReset a else s.accessInService a
  else s

/-! ## The descriptor (R145, R167, R191) -/

/-- R191: a ring of the descriptor block from its two words, if they are valid. -/
def ringOf (base count : Word) : Option Ring :=
  if base.extractLsb' 0 6 = 0 ∧ count.toNat ∈ [16, 32, 64, 128, 256, 512, 1024] then
    some { base := base, count := count.toNat }
  else none

/-- The 32-bit word at byte `i` of the descriptor block. -/
def descriptorWord (d : Vector Byte 24) (i : Nat) : Word :=
  wordOf (d.toList.getD i 0) (d.toList.getD (i + 1) 0) (d.toList.getD (i + 2) 0)
    (d.toList.getD (i + 3) 0)

/-- R145, R191: the attachment a descriptor block gives, if it is valid. -/
def attachmentOf (d : Vector Byte 24) : Option RingAttachment :=
  match ringOf (descriptorWord d 0) (descriptorWord d 4),
      ringOf (descriptorWord d 8) (descriptorWord d 12),
      ringOf (descriptorWord d 16) (descriptorWord d 20) with
  | some c, some t, some p => some { control := c, transfer := t, completion := p }
  | _, _, _ => none

/-- R167, R145: the rings are attached and the HQI starts afresh. -/
def HostQueue.attach (a : RingAttachment) (h : HostQueue) : HostQueue :=
  { h with
    attachment := some a
    controlHead := 0
    transferHead := 0
    controlTail := 0
    transferTail := 0
    completionTail := 0
    completionHead := 0
    phase := true
    controlTailMark := false
    transferTailMark := false
    completionHeadMark := false
    ageTimer := none
    delayReached := false
    threshold := 1
    delay := 0 }

/-- R145: a failed judgement: BAD_DESCRIPTOR, and ENABLE again reads 0. -/
def State.badDescriptor (s : State) : State :=
  { s with
    sc := { s.sc with descriptorRead := none, haltReason := .badDescriptor }
    hqi := { s.hqi with enable := false } }

/-- R145: the descriptor read ends. -/
def State.onDescriptorEnd (r : DescriptorEnd) (s : State) : State :=
  if s.sc.engine = .off ∧ s.sc.descriptorRead.isSome then
    match r with
    | .error => s.badDescriptor
    | .data d =>
      match attachmentOf d with
      | none => s.badDescriptor
      | some a =>
        { s with
          sc := { s.sc with descriptorRead := none, engine := .idle }
          hqi := s.hqi.attach a }
  else s

/-! ## Fetching and taking (R171 to R173) -/

/-- R180: a post is ready to start but for the master port. -/
def State.postReady (s : State) : Bool :=
  s.sc.engine.serving && s.hqi.post = none && s.hqi.staging ≠ [] && !s.hqi.ringFull

/-- R171: the control ring is a candidate. -/
def State.controlCandidate (s : State) : Bool :=
  1 ≤ s.hqi.controlPending && s.sc.request = none

/-- R171: the transfer ring is a candidate. A record taken and not yet applied by its owner holds the
ring like the non-slot completion that may follow it (DESIGN CHOICE, log entry 2). -/
def State.transferCandidate (s : State) : Bool :=
  1 ≤ s.hqi.transferPending && s.hqi.heldCopy = none && s.hqi.nonSlot = none && s.hqi.taken = none

/-- R171: start a read at the head entry of a ring. -/
def State.startFetch (ring : SubmissionRing) (index : Nat) (s : State) : State :=
  { s with hqi := { s.hqi with fetch := some { ring := ring, index := index, withdrawn := false } } }

/-- R171, R173: the fetch engine starts a read when the port is free and no post is ready to go first. -/
def State.onFetchStart (s : State) : State :=
  if s.sc.engine.serving ∧ s.hqi.fetch = none ∧ s.hqi.post = none ∧ !s.postReady then
    if s.controlCandidate then s.startFetch .control s.hqi.controlHead
    else if s.transferCandidate then s.startFetch .transfer s.hqi.transferHead
    else s
  else s

/-- R172: the record stays as the held transfer copy. The kind byte is tested as read. -/
def State.mustHold (r : Record) (s : State) : Bool :=
  match r.kind with
  | some .remoteRead | some .remoteWrite | some .restartStation => s.tt.freeCount = 0
  | some .writeOutputs =>
    match r.station with
    | none => false
    | some k => (s.station k).results ≠ []
  | _ => false

/-- R172, R146: take a control record: the head advances and the record is the control request in
progress at stage APPLYING. -/
def State.takeControl (r : Record) (s : State) : State :=
  match s.hqi.attachment with
  | none => s
  | some a =>
    { s with
      hqi := { s.hqi with controlHead := nextIndex a.control.count s.hqi.controlHead }
      sc := { s.sc with
        request := some { record := r, index := s.hqi.controlHead, stage := .applying } } }

/-- R172, R175: take a transfer record: the head advances and the record is handed to its owner, which
applies it in the request's own row (DESIGN CHOICE, log entry 2). -/
def State.takeTransfer (r : Record) (s : State) : State :=
  match s.hqi.attachment with
  | none => s
  | some a =>
    { s with
      hqi := { s.hqi with
        transferHead := nextIndex a.transfer.count s.hqi.transferHead
        heldCopy := none
        taken := some { record := r, index := s.hqi.transferHead } } }

/-- R170, R172: a fetch ends without error. -/
def State.onFetchEnd (r : Record) (s : State) : State :=
  match s.hqi.fetch with
  | none => s
  | some f =>
    let s := { s with hqi := { s.hqi with fetch := none } }
    if f.withdrawn ∨ s.hqi.pendingIn f.ring = 0 then s
    else
      match f.ring with
      | .control => s.takeControl r
      | .transfer =>
        if s.mustHold r then { s with hqi := { s.hqi with heldCopy := some r } } else s.takeTransfer r

/-- R172: the case that holds the transfer copy has ended, and the copy is taken. -/
def State.onHeldCopyTaken (s : State) : State :=
  match s.hqi.heldCopy with
  | none => s
  | some r => if s.mustHold r then s else s.takeTransfer r

/-! ## Staging (R178, R179) -/

/-- R179: the record of a request's completion, with the common fields as they stand at the grant. -/
def State.requestRecord (c : Completion) (s : State) : CompletionRecord where
  event := false
  kind := c.kind
  tag := c.tag
  status := c.status
  station := c.station
  index := c.index
  fromTransfer := c.ring = .transfer
  controlHead := s.hqi.controlHead
  transferHead := s.hqi.transferHead
  count := 0
  cycle := s.cs.cycle
  extra := c.extra
  data := c.data

/-- R179: an event record. -/
def State.eventRecord (kind station : Byte) (count : Half) (extra data : List Byte)
    (s : State) : CompletionRecord where
  event := true
  kind := kind
  tag := 0
  status := .ok
  station := station
  index := 0
  fromTransfer := false
  controlHead := s.hqi.controlHead
  transferHead := s.hqi.transferHead
  count := count
  cycle := s.cs.cycle
  extra := extra
  data := data

/-- The claims of R178. -/
inductive Claim where
  | control (c : Completion)
  | slot (i : SlotId)
  | transfer (r : ReadyEntry)
  | safe
  | fault
  | stationState (k : StationId)
  | change (k : StationId)
  deriving DecidableEq, Repr

/-- The completion of a READY control request. -/
def SessionController.readyCompletion (c : SessionController) : Option Completion :=
  match c.request with
  | some { record := _, index := _, stage := .ready x } => some x
  | _ => none

/-- The first station, ascending, with a pending state report. -/
def State.firstStateReport (s : State) : Option StationId :=
  allStations.find? fun k => (s.station k).report.pending

/-- The first station, ascending, with a pending change report. -/
def State.firstChange (s : State) : Option StationId :=
  allStations.find? fun k => (s.station k).change.pending

/-- R178: the offered claim of highest precedence. -/
def State.topClaim (s : State) : Option Claim :=
  match s.sc.readyCompletion with
  | some c => some (.control c)
  | none =>
    match s.tt.doneQueue with
    | i :: _ => some (.slot i)
    | [] =>
      match s.hqi.readyList with
      | r :: _ => some (.transfer r)
      | [] =>
        if s.hm.event.pending then some .safe
        else if s.fl.pending then some .fault
        else
          match s.firstStateReport with
          | some k => some (.stationState k)
          | none =>
            match s.firstChange with
            | some k => some (.change k)
            | none => none

/-- The record enters the staging buffer behind the records already there. -/
def State.stage (r : CompletionRecord) (o : Owner) (s : State) : State :=
  { s with hqi := { s.hqi with staging := s.hqi.staging ++ [{ record := r, owner := o }] } }

/-- R112: the completion of a DONE slot. -/
def State.slotCompletion (i : SlotId) (s : State) : Completion :=
  let x := s.slot i
  let length := (x.result.map (·.dataLength)).getD 0
  { kind := match x.kind with
      | some k => k.request.code
      | none => 0
    tag := x.tag
    station := match x.station with
      | some k => byteOf (address k)
      | none => 0
    ring := .transfer
    index := x.index
    status := (x.result.map (·.status)).getD .ok
    extra := [byteOf x.attemptCount, byteOf x.waitCount]
    data := x.data.take length }

/-- R80: the completion of a confirm result. -/
def confirmCompletion (k : StationId) (c : ConfirmResult) : Completion where
  kind := RequestKind.writeOutputs.code
  tag := c.tag
  station := byteOf (address k)
  ring := .transfer
  index := c.index
  status := c.status
  extra := []
  data := []

/-- R146: the grant of the control request in progress. -/
def State.grantControl (c : Completion) (s : State) : State :=
  let s := s.stage (s.requestRecord c) .request
  { s with sc := { s.sc with request := none } }

/-- R112: the grant of a DONE slot. -/
def State.grantSlot (i : SlotId) (s : State) : State :=
  (s.stage (s.requestRecord (s.slotCompletion i)) .request).freeSlot i

/-- R177: the grant of the transfer class. -/
def State.grantTransfer (r : ReadyEntry) (s : State) : State :=
  let rest := s.hqi.readyList.tail
  match r with
  | .nonSlot =>
    match s.hqi.nonSlot with
    | none => { s with hqi := { s.hqi with readyList := rest } }
    | some c =>
      let s := s.stage (s.requestRecord c) .request
      { s with hqi := { s.hqi with readyList := rest, nonSlot := none } }
  | .confirm k =>
    match (s.station k).results with
    | [] => { s with hqi := { s.hqi with readyList := rest } }
    | c :: others =>
      let s := s.stage (s.requestRecord (confirmCompletion k c)) .request
      let s := s.updStation k fun e => { e with results := others }
      { s with hqi := { s.hqi with readyList := rest } }

/-- R96: the grant of the SAFE event. -/
def State.grantSafe (s : State) : State :=
  let extra := [flagBit s.hm.safe 0, 0] ++ halfBytes (BitVec.ofNat 16 s.hm.holdTime)
  let s := s.stage (s.eventRecord safeKind 0 (s.hm.event.count.zeroExtend 16) extra []) .safe
  { s with hm := { s.hm with event := { pending := false, inStaging := true, count := 0 } } }

/-- R136: the grant of the FAULT event. -/
def State.grantFault (s : State) : State :=
  let f := s.fl.eventFields
  let s := s.stage (s.eventRecord faultEventKind f.1 s.fl.changes f.2.1 f.2.2) .fault
  { s with fl := s.fl.granted }

/-- R49: the grant of a STATION_STATE report. -/
def State.grantStationState (k : StationId) (s : State) : State :=
  let e := s.station k
  (s.stage (s.eventRecord stationStateKind (byteOf (address k)) (e.report.transitions.zeroExtend 16)
    [e.state.code] []) (.stationState k)).updStation k Station.reportGranted

/-- R85: the grant of a CHANGE report. -/
def State.grantChange (k : StationId) (s : State) : State :=
  let e := s.station k
  (s.stage (s.eventRecord changeKind (byteOf (address k)) (e.change.coalesce.zeroExtend 16)
    [byteOf e.netChange, byteOf e.inputSize] (e.inputImage ++ e.change.bits)) (.change k)).updStation
    k Station.changeGranted

/-- R179: the owner of the granted claim makes its record. -/
def State.grant (c : Claim) (s : State) : State :=
  match c with
  | .control c => s.grantControl c
  | .slot i => s.grantSlot i
  | .transfer r => s.grantTransfer r
  | .safe => s.grantSafe
  | .fault => s.grantFault
  | .stationState k => s.grantStationState k
  | .change k => s.grantChange k

/-- R178: one grant; the arbiter's further grants are further commands (DESIGN CHOICE, log entry 22). -/
def State.onGrant (s : State) : State :=
  if s.sc.engine.serving ∧ s.hqi.staging.length < Config.stagingPlaces then
    match s.topClaim with
    | some c => s.grant c
    | none => s
  else s

/-! ## Posting (R180, R181, R185) -/

/-- R180: the write of the oldest staged record into the entry at the completion tail. The address is a
32-bit sum (DESIGN CHOICE, log entry 20). -/
def State.onPostStart (s : State) : State :=
  if s.postReady ∧ s.hqi.fetch = none then
    match s.hqi.staging, s.hqi.attachment with
    | r :: _, some a =>
      { s with hqi := { s.hqi with post := some {
          address := a.completion.base + BitVec.ofNat 32 (64 * s.hqi.completionTail)
          bytes := r.record.bytes s.hqi.phase } } }
    | _, _ => s
  else s

/-- R185: the age timer at a post that finds the ring with no unread record. -/
def HostQueue.startAge (h : HostQueue) : HostQueue :=
  if h.delay = 0 then { h with ageTimer := none, delayReached := true }
  else { h with ageTimer := some h.delay, delayReached := false }

/-- R180, R181: the record has been posted. -/
def HostQueue.posted (count : Nat) (h : HostQueue) : HostQueue :=
  let tail := nextIndex count h.completionTail
  let first := h.unread = 0
  let h := { h with
    post := none
    staging := h.staging.tail
    completionTail := tail
    phase := if tail = 0 then !h.phase else h.phase }
  if first then h.startAge else h

/-- R180: the HQI tells the owner of a posted event record. -/
def State.tellPosted (o : Owner) (s : State) : State :=
  match o with
  | .request => s
  | .change k => s.updStation k Station.changePosted
  | .stationState k => s.updStation k Station.reportPosted
  | .safe =>
    { s with hm := { s.hm with event := { s.hm.event with
      inStaging := false
      pending := s.hm.event.pending || s.hm.event.count ≠ 0 } } }
  | .fault => { s with fl := s.fl.posted }

/-- R180: a post write ends without error. -/
def State.onPostEnd (s : State) : State :=
  if s.sc.engine.serving ∧ s.hqi.post.isSome then
    match s.hqi.staging, s.hqi.attachment with
    | r :: _, some a =>
      ({ s with hqi := s.hqi.posted a.completion.count } : State).tellPosted r.owner
    | _, _ => s
  else s

/-- R185: the age timer expires. -/
def State.onAgeExpiry (s : State) : State :=
  if s.hqi.ageTimer = some 0 ∧ 1 ≤ s.hqi.unread then
    { s with hqi := { s.hqi with ageTimer := none, delayReached := true } }
  else s

/-! ## HALTED (R158, R159, R187) -/

/-- R22, R159: the LC loses the line and is OFF, with its counters as they stood. What HALTED keeps besides
is DEDUCED (log entry 14). -/
def LineController.lose (l : LineController) : LineController :=
  { l with
    state := .off
    responseTimer := none
    gapTimer := none
    quietTimer := none
    tx := []
    rx := []
    corrupt := false
    exchange := none
    held := none
    run := false }

/-- R187: the HQI at entry into HALTED. -/
def HostQueue.halt (h : HostQueue) : HostQueue :=
  { h with
    fetch := none
    post := none
    staging := []
    heldCopy := none
    taken := none
    nonSlot := none
    readyList := []
    ageTimer := none }

/-- R72: the CS at entry into HALTED. -/
def Scheduler.halt (c : Scheduler) : Scheduler :=
  { c with phase := .stopped, cycleTimer := none, emptyGapTimer := none, inHand := none }

/-- R89, R95: the hold timer stops, when a stop or a close is taken and at entry into HALTED. -/
def HoldMonitor.stopTimer (h : HoldMonitor) : HoldMonitor := { h with timer := none }

/-- R159: entry into HALTED. The hold timer stops (R89, R143). -/
def State.halt (reason : HaltReason) (s : State) : State :=
  { s with
    sc := { s.sc with engine := .halted, haltReason := reason, request := none }
    hqi := s.hqi.halt
    lc := s.lc.lose
    cs := s.cs.halt
    hm := s.hm.stopTimer }

/-- R145, R158: the transaction in flight on the master port ends with an error response; in OFF it can only
be the descriptor read (DEDUCED, log entry 15). -/
def State.onPortError (s : State) : State :=
  if s.sc.engine.serving then
    if s.hqi.fetch.isSome then s.halt .fetchError
    else if s.hqi.post.isSome then s.halt .postError
    else s
  else s.onDescriptorEnd .error

end Sys2Proof.Machine
end

