-- ==== Sys2Proof/Machine/SessionOps.lean ====
section
/-! DEFINITION. The Hold Monitor and the session-wide claims: SAFE entry and exit, the gate of control
requests by engine state, opening, stopping and closing a session, and the passing of time (R88 to R96,
R146 to R156). -/

namespace Sys2Proof.Machine

/-! ## Hold Monitor (R89, R91, R94 to R96) -/

/-- The hold time as loaded into the hold timer; with a hold time of 0 it never runs (R89; DEDUCED for R94,
log entry 18). -/
def HoldMonitor.load (h : HoldMonitor) : HoldMonitor :=
  { h with timer := if h.holdTime = 0 then none else some (h.holdTime * 1000) }

/-- R89: a refresh restarts the timer if it is running. -/
def HoldMonitor.refresh (h : HoldMonitor) : HoldMonitor :=
  if h.timer.isSome then h.load else h

/-- R91, R96: the HM at SAFE entry. -/
def HoldMonitor.enterSafe (h : HoldMonitor) : HoldMonitor :=
  { h with
    safe := true
    timer := none
    event := { h.event with
      count := satInc h.event.count
      pending := h.event.pending || !h.event.inStaging } }

/-- R95: SAFE is cleared, and the cause of HOLD_EXPIRED ended. -/
def State.clearSafe (s : State) : State :=
  ({ s with hm := { s.hm with safe := false } } : State).endCause .holdExpired 0

/-- The number of stations in service. -/
def State.inServiceCount (s : State) : Nat :=
  (allStations.filter fun k => (s.station k).inService).length

/-- R91: a POLL the LC holds and has not begun to send is rebuilt with the safe image. -/
def State.rebuildHeld (s : State) : State :=
  match s.lc.held with
  | none => s
  | some q =>
    match q.kind, stationAt q.address with
    | .poll, some k => { s with lc := { s.lc with held := some (s.pollRequest k) } }
    | _, _ => s

/-- End a station's pending confirm, as one step of a walk over the stations. -/
def State.endConfirmWith (status : Status) (s : State) (k : StationId) : State := s.endConfirm k status

/-- R91: SAFE entry. -/
def State.enterSafe (s : State) : State :=
  let s := ({ s with hm := s.hm.enterSafe } : State).rebuildHeld
  let s := allStations.foldl (State.endConfirmWith (.station .outputsHeld)) s
  s.raise .holdExpired 0 (byteOf s.inServiceCount)

/-- R91: the hold timer expires. -/
def State.onHoldExpiry (s : State) : State :=
  if s.sc.engine = .run ∧ s.hm.timer = some 0 then s.enterSafe else s

/-! ## The gate of control requests (R146, R147) -/

/-- R147: the engine states in which a control request is handed on. -/
def RequestKind.takenIn (k : RequestKind) (e : EngineState) : Bool :=
  match k, e with
  | .openSession, .idle => true
  | .startCycles, .config => true
  | .stopCycles, .run => true
  | .closeSession, .config | .closeSession, .run => true
  | .configureStation, .config | .configureStation, .run => true
  | .removeStation, .config | .removeStation, .run => true
  | .readStation, .config | .readStation, .run => true
  | .readStats, .config | .readStats, .run => true
  | .abort, .config | .abort, .run => true
  | .ackFault, .idle | .ackFault, .config | .ackFault, .run => true
  | .readFaults, .idle | .readFaults, .config | .readFaults, .run => true
  | .resume, .idle | .resume, .config | .resume, .run => true
  | _, _ => false

/-- The record of the control request in progress, when it is at stage APPLYING, passes the common
checks and is of kind `k`. -/
def State.applying (k : RequestKind) (s : State) : Option Record :=
  match s.sc.request with
  | none => none
  | some q => if q.stage = .applying ∧ q.record.isValid .control k then some q.record else none

/-- R146, R147: apply the control request in progress of kind `k` by `f`, or refuse it REJECTED/BAD_STATE.
When no such request is at stage APPLYING the event does not happen (DESIGN CHOICE, log entry 1). -/
def State.applyControl (k : RequestKind) (f : Record → State → State) (s : State) : State :=
  match s.applying k with
  | none => s
  | some r =>
    if k.takenIn s.sc.engine then f r s
    else s.completeControl (.rejected .badState) [] []

/-- A control request completes with a status, no extra and no data. -/
def State.answer (status : Status) (s : State) : State := s.completeControl status [] []

/-- The transfer record handed to its owner, when it passes the common checks and is of kind `k`. -/
def State.takenOf (k : RequestKind) (s : State) : Option TakenRecord :=
  match s.hqi.taken with
  | none => none
  | some t => if t.record.isValid .transfer k then some t else none

/-- R175: apply the taken transfer request of kind `k` by `f`. When no such record has been taken the
event does not happen (DESIGN CHOICE, log entries 1 and 2). -/
def State.applyTransfer (k : RequestKind) (f : TakenRecord → State → State) (s : State) : State :=
  match s.takenOf k with
  | none => s
  | some t => f t s

/-- R75, R81, R82: the checks a station request of the transfer ring begins with, in order. -/
def State.imageCheck (k : StationId) (s : State) : Option Status :=
  if s.sc.engine ≠ .config ∧ s.sc.engine ≠ .run then some (.rejected .badState)
  else if !(s.station k).configured then some (.rejected .notConfigured)
  else if (s.station k).removePending then some (.station .notActive)
  else none

/-! ## OPEN_SESSION (R8, R51, R139, R149) -/

/-- R8: the LC when a session opens. -/
def LineController.openSession (p : SessionParams) (l : LineController) : LineController :=
  { l with
    state := .idle
    params := some
      { rate := BitRate.ofCode p.bitRate, responseTimeout := p.responseTimeout, gap := p.gap }
    perCycle := 0
    unexpected := 0
    run := false }

/-- R50, R51: the CS when a session opens. -/
def Scheduler.openSession (p : SessionParams) (c : Scheduler) : Scheduler :=
  { c with
    mode := if p.period = 0 then .freeRun else .fixed
    period := p.period
    budget := p.budget
    syncOption := p.syncOption
    cycle := 0 }.clearStats

/-- R149: an OPEN_SESSION whose parameters are all in range. -/
def State.openSession (p : SessionParams) (s : State) : State :=
  { s with
    lc := s.lc.openSession p
    cs := s.cs.openSession p
    st := { stateEvents := p.stateEvents, entries := s.st.entries.map Station.sessionStart }
    tt := { s.tt with
      attemptLimit := p.attemptLimit
      waitLimit := p.waitLimit
      defaultBackoff := p.backoff }
    hm := { s.hm with holdTime := p.holdTime, safe := false, timer := none }
    fl := s.fl.open
    hqi := { s.hqi with threshold := p.threshold, delay := p.delay }
    sc := { s.sc with teardown := .none, engine := .config } }

/-! ## Stop and close (R71, R151, R153, R154, R156) -/

/-- R151, R154: a stop or close is taken: the teardown and the ending code are set, the hold timer stops
and the CS hands over no further frame. -/
def State.beginTeardown (t : Teardown) (e : EndingCode) (engine : EngineState) (s : State) : State :=
  { s with
    sc := { s.sc with teardown := t, engine := engine }
    tt := { s.tt with ending := some e }
    hm := s.hm.stopTimer
    cs := s.cs.haltTimers }

/-- R153: the stop is applied. -/
def State.applyStop (s : State) : State :=
  let s := s.endAllSlots (.ended .cyclesStopped)
  let s := (allStations.foldl State.stopStation s).clearSafe
  let s := { s with
    cs := s.cs.stop
    sc := { s.sc with teardown := .none, engine := .config } }
  s.answer .ok

/-- R8: the LC when the close of a session has finished with the line. -/
def LineController.closeSession (l : LineController) : LineController :=
  { l.lose with params := none }

/-- R156: the close is applied. -/
def State.applyClose (s : State) : State :=
  let s := s.endAllSlots (.ended .sessionClosed)
  let s := (allStations.foldl State.closeStation s).clearSafe
  let s := { s with
    fl := s.fl.endAll
    cs := s.cs.stop
    lc := s.lc.closeSession
    hqi := { s.hqi with threshold := 1, delay := 0 }
    sc := { s.sc with teardown := .none, engine := .idle } }
  s.answer .ok

/-- The line is clear for a request that waits for it: it is WAITING and the exchange has been delivered
(DESIGN CHOICE, log entry 3). -/
def State.lineClear (s : State) : Bool :=
  match s.sc.request with
  | some { record := _, index := _, stage := .waiting true } => true
  | _ => false

/-! ## Time -/

/-- A timer counts one microsecond. -/
def tickTimer (t : Option Nat) : Option Nat := t.map (· - 1)

/-- Every timer of the state. -/
def State.timers (s : State) : List (Option Nat) :=
  [s.lc.responseTimer, s.lc.gapTimer, s.lc.quietTimer, s.cs.cycleTimer, s.cs.emptyGapTimer,
    s.hm.timer, s.hqi.ageTimer]
    ++ s.st.entries.toList.map (·.restartTimer) ++ s.tt.slots.toList.map (·.backoffTimer)

/-- Some timer has run out and its expiry is not yet taken. -/
def State.expiryDue (s : State) : Bool :=
  s.timers.any (fun t => t = some 0)

/-- Every running timer counts one microsecond. -/
def State.tickTimers (s : State) : State :=
  { s with
    lc := { s.lc with
      responseTimer := tickTimer s.lc.responseTimer
      gapTimer := tickTimer s.lc.gapTimer
      quietTimer := tickTimer s.lc.quietTimer }
    cs := { s.cs with
      cycleTimer := tickTimer s.cs.cycleTimer
      emptyGapTimer := tickTimer s.cs.emptyGapTimer }
    hm := { s.hm with timer := tickTimer s.hm.timer }
    hqi := { s.hqi with ageTimer := tickTimer s.hqi.ageTimer }
    st := { s.st with
      entries := s.st.entries.map fun e => { e with restartTimer := tickTimer e.restartTimer } }
    tt := { s.tt with
      slots := s.tt.slots.map fun x => { x with backoffTimer := tickTimer x.backoffTimer } } }

/-- One tick of the 1 microsecond timebase. In HALTED the timers stand still. An expiry that is due is
taken at its moment: time does not pass it by (DESIGN CHOICE, log entries 4 and 5). -/
def State.tick (s : State) : State :=
  if s.sc.engine = .halted then { s with now := s.now + 1 }
  else if s.expiryDue then s
  else { s.tickTimers with now := s.now + 1 }

end Sys2Proof.Machine
end

