-- ==== Sys2Proof/Machine/HostCommands.lean ====
section
/-! DEFINITION. The meanings of the commands from the host bus and of a power-on reset: register writes,
bad accesses and resets. -/

namespace Sys2Proof.Machine

/-- POWER_ON_RESET (R161): every block at its reset values, reset cause POWER. -/
def execPowerOnReset (s : State) : Host.Outcome State Fault Refusal :=
  .next (s.resetNow .power)

/-- ENABLE (R144): the CONTROL write with ENABLE 1. -/
def execEnable (value : Word) (s : State) : Host.Outcome State Fault Refusal :=
  .next (s.writeRegister .control value)

/-- CONTROLLER_RESET (R162): the CONTROL write with ENABLE 0. -/
def execControllerReset (value : Word) (s : State) : Host.Outcome State Fault Refusal :=
  .next (s.writeRegister .control value)

/-- INT_ENABLE_WRITE (R144, R184): the CONTROL write that leaves ENABLE as it reads. -/
def execIntEnableWrite (value : Word) (s : State) : Host.Outcome State Fault Refusal :=
  .next (s.writeRegister .control value)

/-- The tail register of a submission ring. -/
def tailRegister : SubmissionRing → Register
  | .control => .controlTail
  | .transfer => .transferTail

/-- SUBMISSION_TAIL_WRITE (R168, R170). -/
def execSubmissionTailWrite (ring : SubmissionRing) (value : Word) (s : State) :
    Host.Outcome State Fault Refusal :=
  .next (s.writeRegister (tailRegister ring) value)

/-- COMPLETION_HEAD_WRITE (R168, R169). -/
def execCompletionHeadWrite (value : Word) (s : State) : Host.Outcome State Fault Refusal :=
  .next (s.writeRegister .completionHead value)

/-- OTHER_REGISTER_WRITE (R165): RING_BASE takes the value, a read-only register keeps its own. -/
def execOtherRegisterWrite (register : Register) (value : Word) (s : State) :
    Host.Outcome State Fault Refusal :=
  .next (s.writeRegister register value)

/-- BAD_REGISTER_ACCESS (R165): an error response, and nothing else; and an access while RESET_N is low. -/
def execBadRegisterAccess (access : SlaveAccess) (s : State) : Host.Outcome State Fault Refusal :=
  .next (s.slaveAccess access)

end Sys2Proof.Machine
end

