-- ==== Sys2Proof/Machine/LineCommands.lean ====
section
/-! DEFINITION. The meanings of the commands on the line and of the timers: frames, characters, timeouts,
gaps, unexpected runs, cycle starts, backoff, restart and hold expiries. -/

namespace Sys2Proof.Machine

/-! ## Characters (R11, R12, R19) -/

/-- R11: a character in AWAITING: the delimiter begins the reply, anything else is discarded. -/
def State.awaitCharacter (c : Character) (s : State) : State :=
  if c.isDelimiter then
    { s with lc := { s.lc with
        state := .receiving
        responseTimer := s.lc.params.map (·.twoByteTimes)
        rx := [c.data]
        corrupt := false } }
  else s

/-- R12: the LC with one more character of the reply. After a length above 34 it is discarded. -/
def LineController.receive (c : Character) (l : LineController) : LineController :=
  { l with
    rx := if lengthTooLarge l.rx then l.rx else l.rx ++ [c.data]
    corrupt := l.corrupt || c.framingError
    responseTimer := l.params.map (·.twoByteTimes) }

/-- R12, R13: the outcome fixed by the reply as it stands, if it has ended by its length. -/
def LineController.replyOutcome (l : LineController) : Option LineOutcome :=
  match l.exchange with
  | none => none
  | some x => if replyComplete l.rx then some (acceptReply x l.rx l.corrupt) else none

/-- R12: a character in RECEIVING. -/
def State.receiveCharacter (c : Character) (s : State) : State :=
  let s := { s with lc := s.lc.receive c }
  match s.lc.replyOutcome with
  | some o => s.endExchange o
  | none => s

/-- R19: a character of an unexpected run; the first one of a run is counted. -/
def State.unexpected (s : State) : State :=
  let s := if s.lc.run then s else ({ s with lc := { s.lc with run := true } } : State).countUnexpected
  { s with lc := { s.lc with quietTimer := s.lc.params.map (·.twoByteTimes) } }

/-- R1, R7, R9, R11, R12, R19: a character arrives on RX. In OFF and SENDING the receiver is disabled. -/
def State.onCharacter (c : Character) (s : State) : State :=
  match s.lc.state with
  | .off | .sending => s
  | .awaiting => s.awaitCharacter c
  | .receiving => s.receiveCharacter c
  | .idle | .gap => s.unexpected

/-- FRAME_SENT (R10). -/
def execFrameSent (s : State) : Host.Outcome State Fault Refusal := .next s.onFrameSent

/-- REPLY_DELIMITER (R11): a 0A5h without framing error. -/
def execReplyDelimiter (s : State) : Host.Outcome State Fault Refusal :=
  .next (s.onCharacter { data := Config.delimiter, framingError := false })

/-- REPLY_CHARACTER (R12, R13). -/
def execReplyCharacter (c : Character) (s : State) : Host.Outcome State Fault Refusal :=
  .next (s.onCharacter c)

/-- UNEXPECTED_CHARACTER (R19, R20). -/
def execUnexpectedCharacter (c : Character) (s : State) : Host.Outcome State Fault Refusal :=
  .next (s.onCharacter c)

/-- CHARACTER_DISCARDED_IN_AWAITING (R11). -/
def execCharacterDiscardedInAwaiting (c : Character) (s : State) : Host.Outcome State Fault Refusal :=
  .next (s.onCharacter c)

/-! ## Timeouts of the line (R11, R12, R15, R19) -/

/-- R11: the response timer expires in AWAITING. -/
def State.onResponseTimeout (s : State) : State :=
  if s.lc.state = .awaiting ∧ s.lc.responseTimer = some 0 then s.endExchange (.failed .timeout) else s

/-- RESPONSE_TIMEOUT (R11, R14). -/
def execResponseTimeout (s : State) : Host.Outcome State Fault Refusal := .next s.onResponseTimeout

/-- R12: the inter-byte limit expires in RECEIVING. -/
def State.onInterByteTimeout (s : State) : State :=
  if s.lc.state = .receiving ∧ s.lc.responseTimer = some 0 then s.endExchange (.failed .malformed)
  else s

/-- INTER_BYTE_TIMEOUT (R12, R14). -/
def execInterByteTimeout (s : State) : Host.Outcome State Fault Refusal := .next s.onInterByteTimeout

/-- GAP_END (R15, R66, R68). -/
def execGapEnd (s : State) : Host.Outcome State Fault Refusal := .next s.onGapEnd

/-- RUN_QUIET_END (R19). -/
def execRunQuietEnd (s : State) : Host.Outcome State Fault Refusal :=
  .next (if s.lc.quietTimer = some 0 then
    { s with lc := { s.lc with quietTimer := none, run := false } } else s)

/-! ## Outcomes with a further effect (R78, R115) -/

/-- The line event brings the exchange on the line to its outcome. -/
def State.fixesOutcome (e : OutcomeEvent) (s : State) : Bool :=
  match e with
  | .character c => s.lc.state = .receiving && (s.lc.receive c).replyOutcome.isSome
  | .responseTimeout => s.lc.state = .awaiting && s.lc.responseTimer = some 0
  | .interByteTimeout => s.lc.state = .receiving && s.lc.responseTimer = some 0

/-- A line event. -/
def State.onOutcomeEvent (e : OutcomeEvent) (s : State) : State :=
  match e with
  | .character c => s.onCharacter c
  | .responseTimeout => s.onResponseTimeout
  | .interByteTimeout => s.onInterByteTimeout

/-- R115: the exchange in hand is the attempt of a slot whose abort pending flag is set. -/
def State.abortWaits (s : State) : Bool :=
  match s.cs.inHand with
  | some (.attempt i _) => (s.slot i).abortPending
  | _ => false

/-- ABORT_RESOLVED (R115): the line event that fixes the outcome of an attempt with abort pending (DESIGN
CHOICE, log entry 16). -/
def execAbortResolved (event : OutcomeEvent) (s : State) : Host.Outcome State Fault Refusal :=
  .next (if s.abortWaits ∧ s.fixesOutcome event then s.onOutcomeEvent event else s)

/-- R78: the exchange in hand is a POLL to a station whose pending confirm it carries, and this character
completes a GOOD reply to it. -/
def State.completesConfirm (c : Character) (s : State) : Bool :=
  match s.cs.inHand with
  | some (.poll k) =>
    s.lc.state = .receiving
      && (s.station k).inService
      && ((s.station k).confirm.map (·.carried)).getD false
      && (match (s.lc.receive c).replyOutcome with
        | some (.good _) => true
        | _ => false)
  | _ => false

/-- CONFIRM_COMPLETE (R78): the last character of the GOOD reply that completes a pending confirm (DESIGN
CHOICE, log entry 16). -/
def execConfirmComplete (c : Character) (s : State) : Host.Outcome State Fault Refusal :=
  .next (if s.completesConfirm c then s.onCharacter c else s)

/-! ## Cycle starts (R54, R64 to R68) -/

/-- The event starts a cycle in this state. -/
def State.starts (t : StartTrigger) (s : State) : Bool :=
  match t with
  | .cycleDue => s.dueNow && s.activityEnded
  | .freeRunMinimum =>
    s.cs.cycleTimer = some 0
      && ({ s with cs := { s.cs with cycleTimer := none } } : State).freeRunStart
  | .gapEnd => s.lc.state = .gap && s.lc.gapTimer = some 0 && s.lc.held = none && s.startsAtIdle
  | .emptyCycleGap =>
    s.cs.emptyGapTimer = some 0
      && ({ s with cs := { s.cs with emptyGapTimer := none } } : State).freeRunStart

/-- The event of a trigger. -/
def State.onTrigger (t : StartTrigger) (s : State) : State :=
  match t with
  | .cycleDue => s.onDue
  | .freeRunMinimum => s.onFreeRunMinimum
  | .gapEnd => s.onGapEnd
  | .emptyCycleGap => s.onEmptyGap

/-- CYCLE_START (R54): the event at which a cycle starts (DESIGN CHOICE, log entry 16). -/
def execCycleStart (trigger : StartTrigger) (s : State) : Host.Outcome State Fault Refusal :=
  .next (if s.starts trigger then s.onTrigger trigger else s)

/-- CYCLE_DUE (R64, R65). -/
def execCycleDue (s : State) : Host.Outcome State Fault Refusal := .next s.onDue

/-- FREE_RUN_MINIMUM_EXPIRY (R68). -/
def execFreeRunMinimumExpiry (s : State) : Host.Outcome State Fault Refusal := .next s.onFreeRunMinimum

/-- EMPTY_CYCLE_GAP_EXPIRY (R68). -/
def execEmptyCycleGapExpiry (s : State) : Host.Outcome State Fault Refusal := .next s.onEmptyGap

/-! ## Station, slot and hold timers (R40, R91, R106) -/

/-- R106: a slot's backoff timer expires. -/
def State.onBackoffExpiry (i : SlotId) (s : State) : State :=
  if s.sc.engine ≠ .halted ∧ (s.slot i).state = .backoff ∧ (s.slot i).backoffTimer = some 0 then
    (s.updSlot i fun x => { x with state := .queued, backoffTimer := none }).reportEligible
  else s

/-- BACKOFF_EXPIRY (R106). -/
def execBackoffExpiry (slot : SlotId) (s : State) : Host.Outcome State Fault Refusal :=
  .next (s.onBackoffExpiry slot)

/-- R40: a station's restart timer expires. -/
def State.onRestartExpiry (k : StationId) (s : State) : State :=
  if s.sc.engine ≠ .halted ∧ (s.station k).state = .restarting ∧ (s.station k).restartTimer = some 0 then
    (s.moveStation k .probing).updStation k fun e => { e with restartTimer := none, missCount := 0 }
  else s

/-- RESTART_TIMER_EXPIRY (R40). -/
def execRestartTimerExpiry (station : StationId) (s : State) : Host.Outcome State Fault Refusal :=
  .next (s.onRestartExpiry station)

/-- HOLD_TIMER_EXPIRY (R91). -/
def execHoldTimerExpiry (s : State) : Host.Outcome State Fault Refusal := .next s.onHoldExpiry

end Sys2Proof.Machine
end

