-- ==== Sys2Proof/Machine/RingCommands.lean ====
section
/-! DEFINITION. The meanings of the commands at the host master port and the staging buffer: descriptor
read, fetch, take, refusal, grant, post, age timer and port errors. -/

namespace Sys2Proof.Machine

/-- DESCRIPTOR_READ_END (R145, R167, R191). -/
def execDescriptorReadEnd (result : DescriptorEnd) (s : State) : Host.Outcome State Fault Refusal :=
  .next (s.onDescriptorEnd result)

/-- FETCH_START (R171, R173). -/
def execFetchStart (s : State) : Host.Outcome State Fault Refusal := .next s.onFetchStart

/-- FETCH_END (R170, R172). -/
def execFetchEnd (record : Vector Byte 64) (s : State) : Host.Outcome State Fault Refusal :=
  .next (s.onFetchEnd record)

/-- HELD_COPY_TAKEN (R172, R177). -/
def execHeldCopyTaken (s : State) : Host.Outcome State Fault Refusal := .next s.onHeldCopyTaken

/-- R174: refuse the control request at stage APPLYING that fails the common checks. -/
def State.refuseControl (s : State) : State :=
  match s.sc.request with
  | none => s
  | some q =>
    match q.stage, q.record.commonCheck .control with
    | .applying, some d => s.answer (.rejected d)
    | _, _ => s

/-- R174: refuse the taken transfer record that fails the common checks. -/
def State.refuseTransfer (s : State) : State :=
  match s.hqi.taken with
  | none => s
  | some t =>
    match t.record.commonCheck .transfer with
    | some d => s.completeTransfer t (.rejected d) []
    | none => s

/-- INVALID_REQUEST_RECORD (R174). -/
def execInvalidRequestRecord (ring : SubmissionRing) (s : State) : Host.Outcome State Fault Refusal :=
  .next (match ring with
    | .control => s.refuseControl
    | .transfer => s.refuseTransfer)

/-- STAGING_GRANT (R178, R179). -/
def execStagingGrant (s : State) : Host.Outcome State Fault Refusal := .next s.onGrant

/-- POST_START (R173, R180). -/
def execPostStart (s : State) : Host.Outcome State Fault Refusal := .next s.onPostStart

/-- POST_END (R180, R181, R185). -/
def execPostEnd (s : State) : Host.Outcome State Fault Refusal := .next s.onPostEnd

/-- AGE_TIMER_EXPIRY (R185). -/
def execAgeTimerExpiry (s : State) : Host.Outcome State Fault Refusal := .next s.onAgeExpiry

/-- MASTER_PORT_ERROR (R158, R159). -/
def execMasterPortError (s : State) : Host.Outcome State Fault Refusal := .next s.onPortError

end Sys2Proof.Machine
end

