-- ==== Sys2Proof/Machine/SessionCommands.lean ====
section
/-! DEFINITION. The meanings of the session requests of the control ring: OPEN_SESSION, START_CYCLES,
STOP_CYCLES, CLOSE_SESSION and what comes of the last two once the line is clear. -/

namespace Sys2Proof.Machine

/-- R148, R149: OPEN_SESSION by the SC. -/
def State.onOpenSession (r : Record) (s : State) : State :=
  match r.sessionParams.firstBad with
  | some n => s.completeControl (.rejected .badParameter) [byteOf n] []
  | none => (s.openSession r.sessionParams).answer .ok

/-- OPEN_SESSION (R148, R149). -/
def execOpenSession (s : State) : Host.Outcome State Fault Refusal :=
  .next (s.applyControl .openSession State.onOpenSession)

/-- R150: START_CYCLES by the SC. -/
def State.onStartCycles (_ : Record) (s : State) : State :=
  let s := ({ s with sc := { s.sc with engine := .run } } : State).firstCycle
  ({ s with hm := s.hm.load } : State).answer .ok

/-- START_CYCLES (R150, R53). -/
def execStartCycles (s : State) : Host.Outcome State Fault Refusal :=
  .next (s.applyControl .startCycles State.onStartCycles)

/-- R151: STOP_CYCLES by the SC: applied at once when the line is clear, WAITING otherwise. -/
def State.onStopCycles (_ : Record) (s : State) : State :=
  let t := s.beginTeardown .stop .cyclesStopped .run
  if s.cs.inHand = none then t.applyStop else t.deferControl

/-- STOP_CYCLES (R151). -/
def execStopCycles (s : State) : Host.Outcome State Fault Refusal :=
  .next (s.applyControl .stopCycles State.onStopCycles)

/-- STOP_APPLIED (R153): a STOP_CYCLES that waited, once the line is clear (DESIGN CHOICE, log entry 3). -/
def execStopApplied (s : State) : Host.Outcome State Fault Refusal :=
  .next (if s.sc.teardown = .stop ∧ s.lineClear then s.applyStop else s)

/-- R154: CLOSE_SESSION by the SC: applied at once when the line is clear, WAITING otherwise. -/
def State.onCloseSession (_ : Record) (s : State) : State :=
  let t := s.beginTeardown .close .sessionClosed .closing
  if s.cs.inHand = none then t.applyClose else t.deferControl

/-- CLOSE_SESSION (R154). -/
def execCloseSession (s : State) : Host.Outcome State Fault Refusal :=
  .next (s.applyControl .closeSession State.onCloseSession)

/-- CLOSE_APPLIED (R156): a CLOSE_SESSION that waited, once the line is clear (DESIGN CHOICE, log entry 3). -/
def execCloseApplied (s : State) : Host.Outcome State Fault Refusal :=
  .next (if s.sc.teardown = .close ∧ s.lineClear then s.applyClose else s)

end Sys2Proof.Machine
end

