-- ==== Sys2Proof/Machine/TableCommands.lean ====
section
/-! DEFINITION. The meanings of the other control requests: stations, statistics, ABORT, faults and
RESUME. -/

namespace Sys2Proof.Machine

/-- R25, R26: CONFIGURE_STATION at the ST. -/
def State.onConfigureStation (r : Record) (s : State) : State :=
  match r.station with
  | none => s
  | some k =>
    if (s.station k).configured then s.answer (.rejected .inUse)
    else if !r.stationParams.valid then s.answer (.rejected .badParameter)
    else if r.dataLength ≠ r.stationParams.outputSize then s.answer (.rejected .badLength)
    else
      ((s.updStation k (Station.configure r.stationParams r.data)).moveStation k .probing).answer .ok

/-- CONFIGURE_STATION (R25, R26). -/
def execConfigureStation (s : State) : Host.Outcome State Fault Refusal :=
  .next (s.applyControl .configureStation State.onConfigureStation)

/-- R43, R45: REMOVE_STATION at the ST: applied at once when no exchange is in hand, WAITING otherwise. -/
def State.onRemoveStation (r : Record) (s : State) : State :=
  match r.station with
  | none => s
  | some k =>
    if !(s.station k).configured then s.answer (.rejected .notConfigured)
    else if s.cs.inHand = none then (s.removeStation k).answer .ok
    else (s.updStation k fun e => { e with removePending := true }).deferControl

/-- REMOVE_STATION (R43). -/
def execRemoveStation (s : State) : Host.Outcome State Fault Refusal :=
  .next (s.applyControl .removeStation State.onRemoveStation)

/-- R45: the station of a REMOVE_STATION that waits, once the exchange it waits for has been applied. -/
def State.removalDue (s : State) : Option StationId :=
  match s.sc.request with
  | none => none
  | some q =>
    if q.stage = .waiting true ∧ q.record.isValid .control .removeStation then q.record.station
    else none

/-- REMOVAL_APPLIED (R45), a step of its own (DESIGN CHOICE, log entry 3). -/
def execRemovalApplied (s : State) : Host.Outcome State Fault Refusal :=
  .next (match s.removalDue with
    | none => s
    | some k => (s.removeStation k).answer .ok)

/-- R47: READ_STATION at the ST. -/
def State.onReadStation (r : Record) (s : State) : State :=
  match r.station with
  | none => s
  | some k =>
    if !(s.station k).configured then s.answer (.rejected .notConfigured)
    else
      let t := s.completeControl .ok [] (s.station k).readData
      if r.clearFlag then t.updStation k fun e => { e with counters := .zero } else t

/-- READ_STATION (R47). -/
def execReadStation (s : State) : Host.Outcome State Fault Refusal :=
  .next (s.applyControl .readStation State.onReadStation)

/-- R70: READ_STATS at the CS. -/
def State.onReadStats (r : Record) (s : State) : State :=
  let t := s.completeControl .ok [] s.statsData
  if r.clearFlag then { t with cs := t.cs.clearStats, lc := { t.lc with unexpected := 0 } } else t

/-- READ_STATS (R70). -/
def execReadStats (s : State) : Host.Outcome State Fault Refusal :=
  .next (s.applyControl .readStats State.onReadStats)

/-- R118 to R120: ABORT at the TT. -/
def State.onAbort (r : Record) (s : State) : State :=
  match s.abortTarget r.paramA with
  | none => s.answer (.rejected .notFound)
  | some i =>
    if (s.slot i).state = .onLink then
      (s.updSlot i fun x => { x with abortPending := true }).deferControl
    else
      ((s.endSlot i (.ended .aborted)).answerAbort true (s.slot i).index .ok).reportEligible

/-- ABORT (R118 to R120). -/
def execAbort (s : State) : Host.Outcome State Fault Refusal :=
  .next (s.applyControl .abort State.onAbort)

/-- R129: the pair an ACK_FAULT names, when it is a valid one. -/
def Record.faultPair (r : Record) : Option (FaultKind × Nat) :=
  match FaultKind.ofCode r.faultSelector with
  | none => none
  | some k =>
    if (k.isStationKind && inRange 1 31 r.faultStation) || (!k.isStationKind && r.faultStation = 0) then
      some (k, r.faultStation)
    else none

/-- R129 to R131: ACK_FAULT at the FL. -/
def State.onAckFault (r : Record) (s : State) : State :=
  if r.faultSelector = 0xFF then
    let a := s.fl.acknowledgeAll
    ({ s with fl := a.1 } : State).completeControl .ok [byteOf a.2.1, byteOf a.2.2] []
  else
    match r.faultPair with
    | none => s.answer (.rejected .badParameter)
    | some (kind, station) =>
      match s.fl.acknowledge kind station with
      | none => s.answer (.rejected .notFound)
      | some a => ({ s with fl := a.1 } : State).completeControl .ok [byteOf a.2.1, byteOf a.2.2] []

/-- ACK_FAULT (R129 to R131). -/
def execAckFault (s : State) : Host.Outcome State Fault Refusal :=
  .next (s.applyControl .ackFault State.onAckFault)

/-- R133: READ_FAULTS at the FL. -/
def State.onReadFaults (r : Record) (s : State) : State :=
  if 15 < r.paramA.toNat then s.answer (.rejected .badParameter)
  else
    let reports := s.fl.reports r.paramA.toNat
    let extra := [byteOf s.fl.entries.length] ++ halfBytes s.fl.overflow ++ [byteOf (reports.length / 8)]
    let t := s.completeControl .ok extra reports
    if r.clearFlag then { t with fl := { t.fl with overflow := 0 } } else t

/-- READ_FAULTS (R133). -/
def execReadFaults (s : State) : Host.Outcome State Fault Refusal :=
  .next (s.applyControl .readFaults State.onReadFaults)

/-- R94: RESUME at the HM. -/
def State.onResume (_ : Record) (s : State) : State :=
  if s.hm.safe then
    let s := s.clearSafe
    ({ s with hm := s.hm.load } : State).answer .ok
  else s.answer (.rejected .badState)

/-- RESUME (R94). -/
def execResume (s : State) : Host.Outcome State Fault Refusal :=
  .next (s.applyControl .resume State.onResume)

end Sys2Proof.Machine
end

