-- ==== Sys2Proof/Machine/TransferCommands.lean ====
section
/-! DEFINITION. The meanings of the transfer requests: images, watch mask, KEEPALIVE and the three remote
kinds. -/

namespace Sys2Proof.Machine

/-- R76: the image is replaced and the hold timer refreshed, after a pending confirm has been
superseded. -/
def State.replaceOutputs (k : StationId) (image : List Byte) (s : State) : State :=
  let s := (s.endConfirm k (.ended .superseded)).updStation k fun e => { e with outputImage := image }
  { s with hm := s.hm.refresh }

/-- R77: the status with which an accepted WRITE_OUTPUTS completes at once; `none` when its completion is
deferred. -/
def State.writeStatus (k : StationId) (confirm : Bool) (s : State) : Option Status :=
  if !confirm then some .ok
  else if !(s.station k).inService ∨ s.sc.engine ≠ .run then some (.station .notActive)
  else if s.hm.safe then some (.station .outputsHeld)
  else none

/-- R77: the request's tag and ring index are recorded as the station's pending confirm. -/
def Station.deferConfirm (t : TakenRecord) (e : Station) : Station :=
  { e with confirm := some { tag := t.record.tag, index := t.index, carried := false } }

/-- R75 to R77: WRITE_OUTPUTS at the ST and the HM. -/
def State.onWriteOutputs (t : TakenRecord) (s : State) : State :=
  match t.record.station with
  | none => s
  | some k =>
    match s.imageCheck k with
    | some status => s.completeTransfer t status []
    | none =>
      if t.record.dataLength ≠ (s.station k).outputSize then
        s.completeTransfer t (.rejected .badLength) []
      else
        let s := s.replaceOutputs k t.record.data
        match s.writeStatus k t.record.confirmFlag with
        | some status => s.completeTransfer t status []
        | none => (s.updStation k (Station.deferConfirm t)).dropTaken

/-- WRITE_OUTPUTS (R75 to R77). -/
def execWriteOutputs (s : State) : Host.Outcome State Fault Refusal :=
  .next (s.applyTransfer .writeOutputs State.onWriteOutputs)

/-- R81: READ_INPUTS at the ST. -/
def State.onReadInputs (t : TakenRecord) (s : State) : State :=
  match t.record.station with
  | none => s
  | some k =>
    match s.imageCheck k with
    | some status => s.completeTransfer t status []
    | none =>
      if (s.station k).inputsValid then s.completeTransfer t .ok (s.station k).inputImage
      else s.completeTransfer t (.station .inputsNotValid) []

/-- READ_INPUTS (R81). -/
def execReadInputs (s : State) : Host.Outcome State Fault Refusal :=
  .next (s.applyTransfer .readInputs State.onReadInputs)

/-- R82: SET_WATCH at the ST. -/
def State.onSetWatch (t : TakenRecord) (s : State) : State :=
  match t.record.station with
  | none => s
  | some k =>
    match s.imageCheck k with
    | some status => s.completeTransfer t status []
    | none =>
      if t.record.dataLength ≠ (s.station k).inputSize then
        s.completeTransfer t (.rejected .badLength) []
      else
        (s.updStation k fun e =>
          { e with watchMask := t.record.data, lastReported := e.inputImage }).completeTransfer t .ok []

/-- SET_WATCH (R82). -/
def execSetWatch (s : State) : Host.Outcome State Fault Refusal :=
  .next (s.applyTransfer .setWatch State.onSetWatch)

/-- R90: KEEPALIVE at the HM. -/
def State.onKeepalive (t : TakenRecord) (s : State) : State :=
  if s.sc.engine = .config ∨ s.sc.engine = .run then
    ({ s with hm := s.hm.refresh } : State).completeTransfer t .ok []
  else s.completeTransfer t (.rejected .badState) []

/-- KEEPALIVE (R90). -/
def execKeepalive (s : State) : Host.Outcome State Fault Refusal :=
  .next (s.applyTransfer .keepalive State.onKeepalive)

/-- R99, R100: a remote request at the TT. -/
def State.onRemote (kind : RemoteKind) (t : TakenRecord) (s : State) : State :=
  match t.record.station with
  | none => s
  | some k =>
    match s.remoteCheck kind t k with
    | some status => s.completeTransfer t status []
    | none =>
      match s.lowestFree with
      | none => s
      | some i => (s.acceptInto i kind t k).dropTaken.reportEligible

/-- REMOTE_READ (R99, R100). -/
def execRemoteRead (s : State) : Host.Outcome State Fault Refusal :=
  .next (s.applyTransfer .remoteRead (State.onRemote .read))

/-- REMOTE_WRITE (R99, R100). -/
def execRemoteWrite (s : State) : Host.Outcome State Fault Refusal :=
  .next (s.applyTransfer .remoteWrite (State.onRemote .write))

/-- RESTART_STATION (R99, R100). -/
def execRestartStation (s : State) : Host.Outcome State Fault Refusal :=
  .next (s.applyTransfer .restartStation (State.onRemote .restart))

end Sys2Proof.Machine
end

