-- ==== Sys2Proof/Machine/Dispatch.lean ====
section
/-! DEFINITION. One arm per command: its meaning. -/

namespace Sys2Proof.Machine

/-- The effect of a command on the part. The queue of waiting commands is not its concern. -/
def exec (i : Instr) (s : State) : Host.Outcome State Fault Refusal :=
  match i with
  | .powerOnReset => Sys2Proof.Machine.execPowerOnReset s
  | .enable value => Sys2Proof.Machine.execEnable value s
  | .controllerReset value => Sys2Proof.Machine.execControllerReset value s
  | .intEnableWrite value => Sys2Proof.Machine.execIntEnableWrite value s
  | .submissionTailWrite ring value => Sys2Proof.Machine.execSubmissionTailWrite ring value s
  | .completionHeadWrite value => Sys2Proof.Machine.execCompletionHeadWrite value s
  | .otherRegisterWrite register value => Sys2Proof.Machine.execOtherRegisterWrite register value s
  | .badRegisterAccess access => Sys2Proof.Machine.execBadRegisterAccess access s
  | .descriptorReadEnd result => Sys2Proof.Machine.execDescriptorReadEnd result s
  | .fetchStart => Sys2Proof.Machine.execFetchStart s
  | .fetchEnd record => Sys2Proof.Machine.execFetchEnd record s
  | .heldCopyTaken => Sys2Proof.Machine.execHeldCopyTaken s
  | .invalidRequestRecord ring => Sys2Proof.Machine.execInvalidRequestRecord ring s
  | .openSession => Sys2Proof.Machine.execOpenSession s
  | .startCycles => Sys2Proof.Machine.execStartCycles s
  | .stopCycles => Sys2Proof.Machine.execStopCycles s
  | .stopApplied => Sys2Proof.Machine.execStopApplied s
  | .closeSession => Sys2Proof.Machine.execCloseSession s
  | .closeApplied => Sys2Proof.Machine.execCloseApplied s
  | .configureStation => Sys2Proof.Machine.execConfigureStation s
  | .removeStation => Sys2Proof.Machine.execRemoveStation s
  | .removalApplied => Sys2Proof.Machine.execRemovalApplied s
  | .readStation => Sys2Proof.Machine.execReadStation s
  | .readStats => Sys2Proof.Machine.execReadStats s
  | .abort => Sys2Proof.Machine.execAbort s
  | .abortResolved event => Sys2Proof.Machine.execAbortResolved event s
  | .ackFault => Sys2Proof.Machine.execAckFault s
  | .readFaults => Sys2Proof.Machine.execReadFaults s
  | .resume => Sys2Proof.Machine.execResume s
  | .writeOutputs => Sys2Proof.Machine.execWriteOutputs s
  | .readInputs => Sys2Proof.Machine.execReadInputs s
  | .setWatch => Sys2Proof.Machine.execSetWatch s
  | .keepalive => Sys2Proof.Machine.execKeepalive s
  | .remoteRead => Sys2Proof.Machine.execRemoteRead s
  | .remoteWrite => Sys2Proof.Machine.execRemoteWrite s
  | .restartStation => Sys2Proof.Machine.execRestartStation s
  | .cycleStart trigger => Sys2Proof.Machine.execCycleStart trigger s
  | .cycleDue => Sys2Proof.Machine.execCycleDue s
  | .freeRunMinimumExpiry => Sys2Proof.Machine.execFreeRunMinimumExpiry s
  | .emptyCycleGapExpiry => Sys2Proof.Machine.execEmptyCycleGapExpiry s
  | .frameSent => Sys2Proof.Machine.execFrameSent s
  | .replyDelimiter => Sys2Proof.Machine.execReplyDelimiter s
  | .replyCharacter c => Sys2Proof.Machine.execReplyCharacter c s
  | .responseTimeout => Sys2Proof.Machine.execResponseTimeout s
  | .interByteTimeout => Sys2Proof.Machine.execInterByteTimeout s
  | .gapEnd => Sys2Proof.Machine.execGapEnd s
  | .unexpectedCharacter c => Sys2Proof.Machine.execUnexpectedCharacter c s
  | .runQuietEnd => Sys2Proof.Machine.execRunQuietEnd s
  | .confirmComplete c => Sys2Proof.Machine.execConfirmComplete c s
  | .backoffExpiry slot => Sys2Proof.Machine.execBackoffExpiry slot s
  | .restartTimerExpiry station => Sys2Proof.Machine.execRestartTimerExpiry station s
  | .holdTimerExpiry => Sys2Proof.Machine.execHoldTimerExpiry s
  | .stagingGrant => Sys2Proof.Machine.execStagingGrant s
  | .postStart => Sys2Proof.Machine.execPostStart s
  | .postEnd => Sys2Proof.Machine.execPostEnd s
  | .ageTimerExpiry => Sys2Proof.Machine.execAgeTimerExpiry s
  | .masterPortError => Sys2Proof.Machine.execMasterPortError s
  | .characterDiscardedInAwaiting c => Sys2Proof.Machine.execCharacterDiscardedInAwaiting c s

end Sys2Proof.Machine
end

