-- ==== Sys2Proof/Machine/Step.lean ====
section
/-! DEFINITION. One step of the part: the command at the front of the queue, or a tick of the timebase
when no command waits. -/

namespace Sys2Proof.Machine

/-- `s` with the command that the word spells at the front of its queue, or `s` where it spells none. -/
def State.withFetchWord (s : State) (nbits w : Nat) : State :=
  match decodeTableWord nbits w with
  | none => s
  | some c => { s with pending := c :: s.pending }

/-- The command at the front of the queue takes effect with the queue's rest; with no command waiting the
1 microsecond timebase ticks (DESIGN CHOICE, log entry 4). -/
def step (s : State) : Host.Outcome State Fault Refusal :=
  match s.pending with
  | [] => .next s.tick
  | c :: rest => exec c { s with pending := rest }

end Sys2Proof.Machine
end

