-- ==== Sys2Proof/Safety.lean ====
section
/-! DEFINITION. What counts as a sound state of each block, in the terms the claims use: the fault list
(R124), the station entries (R36, R37), the transaction table (R98, R101), the staging buffer and the
events in it (R49, R84, R96, R135, R180), and the holds of the submission rings (R176). Also the words
the claims use for a request that is being applied and for its answer. -/

namespace Sys2Proof.Machine

/-! ## The fault list -/

/-- R124: at most 16 entries, never two of one kind and station, and none both ENDED and acknowledged. -/
def FaultList.Sound (f : FaultList) : Prop :=
  f.entries.length ≤ 16
    ∧ f.entries.Pairwise (fun a b => a.kind ≠ b.kind ∨ a.station ≠ b.station)
    ∧ ∀ e ∈ f.entries, ¬ (e.ended = true ∧ e.acknowledged = true)

/-! ## Station entries -/

/-- R36, R37: the miss count lies in 0..miss limit, equals the limit exactly in LOST and is 0 in every
state but DEGRADED and LOST; inputs are valid only in service. -/
def Station.Sound (e : Station) : Prop :=
  1 ≤ e.missLimit ∧ e.missCount ≤ e.missLimit
    ∧ (e.missCount = e.missLimit ↔ e.state = .lost)
    ∧ (e.missCount ≠ 0 → e.state = .degraded ∨ e.state = .lost)
    ∧ (e.inputsValid = true → e.state = .active ∨ e.state = .degraded)

/-- Every entry of the station table is sound. -/
def State.StationsSound (s : State) : Prop := ∀ k, (s.station k).Sound

/-! ## The transaction table -/

/-- The slot is QUEUED, ON_LINK or BACKOFF. -/
def SlotState.unfinished : SlotState → Bool
  | .queued | .onLink | .backoff => true
  | .free | .done => false

/-- R98, R101: the age list holds each non-FREE slot once, the done queue each DONE slot once, and a
station's FIFO is exactly its unfinished slots in the order of the age list. The attempt in hand is that of
an ON_LINK slot of the station it names. -/
def State.SlotsSound (s : State) : Prop :=
  s.tt.age.Nodup ∧ (∀ i, i ∈ s.tt.age ↔ (s.slot i).state ≠ .free)
    ∧ s.tt.doneQueue.Nodup ∧ (∀ i, i ∈ s.tt.doneQueue ↔ (s.slot i).state = .done)
    ∧ (∀ i, (s.slot i).state ≠ .free → (s.slot i).station.isSome)
    ∧ (∀ k, s.fifo k = s.tt.age.filter
        (fun i => (s.slot i).state.unfinished && (s.slot i).station = some k))
    ∧ (∀ i k, s.cs.inHand = some (.attempt i k) →
        (s.slot i).state = .onLink ∧ (s.slot i).station = some k)

/-! ## Staging and its events -/

/-- How many staged records the owner waits to be told of. -/
def HostQueue.stagedFor (o : Owner) (h : HostQueue) : Nat :=
  (h.staging.filter (fun r => r.owner = o)).length

/-- An event source has at most one record unposted: a pending flag is clear while the in-staging mark is
set, and the buffer holds at most one record of the source, only while the mark is set. -/
def oneUnposted (pending inStaging : Bool) (staged : Nat) : Prop :=
  ¬ (pending = true ∧ inStaging = true) ∧ staged ≤ inStaging.toNat

/-- R178, R49, R84, R96, R135: the staging buffer holds at most 8 records, and each event source has at
most one event unposted, counting both the source and the buffer. -/
def State.StagingSound (s : State) : Prop :=
  s.hqi.staging.length ≤ 8
    ∧ oneUnposted s.fl.pending s.fl.inStaging (s.hqi.stagedFor .fault)
    ∧ oneUnposted s.hm.event.pending s.hm.event.inStaging (s.hqi.stagedFor .safe)
    ∧ (∀ k, oneUnposted (s.station k).report.pending (s.station k).report.inStaging
        (s.hqi.stagedFor (.stationState k)))
    ∧ (∀ k, oneUnposted (s.station k).change.pending (s.station k).change.inStaging
        (s.hqi.stagedFor (.change k)))

/-! ## One request of a ring at a time -/

/-- A record of the ring is being read. -/
def HostQueue.fetching (ring : SubmissionRing) (h : HostQueue) : Bool :=
  h.fetch.any (fun f => f.ring = ring)

/-- R176: of the transfer ring at most one record is being read, held, taken and unapplied, or answered by a
non-slot completion; no control record is being read while a control request is in progress; and a fetch
and a post do not share the master port (R173). -/
def State.RingsSound (s : State) : Prop :=
  (s.hqi.fetching .transfer).toNat + s.hqi.heldCopy.isSome.toNat + s.hqi.taken.isSome.toNat
      + s.hqi.nonSlot.isSome.toNat ≤ 1
    ∧ ¬ (s.hqi.fetching .control = true ∧ s.sc.request.isSome = true)
    ∧ ¬ (s.hqi.fetch.isSome = true ∧ s.hqi.post.isSome = true)

/-! ## Requests and their answers -/

/-- `q` is the control request in progress, at stage APPLYING; it has passed the common checks and is of
kind `k`. -/
def State.Applies (s : State) (k : RequestKind) (q : ControlRequest) : Prop :=
  s.sc.request = some q ∧ q.stage = .applying ∧ q.record.commonCheck .control = none
    ∧ q.record.kind = some k

/-- `t` is the transfer record taken and not yet applied; it has passed the common checks and is of
kind `k`. -/
def State.Takes (s : State) (k : RequestKind) (t : TakenRecord) : Prop :=
  s.hqi.taken = some t ∧ t.record.commonCheck .transfer = none ∧ t.record.kind = some k

/-- The completion of the request in `record`: kind, tag and station as its bytes read (R174). -/
def answerTo (record : Record) (ring : SubmissionRing) (index : Nat) (status : Status)
    (extra data : List Byte) : Completion where
  kind := record[0]
  tag := record[3] ++ record[2]
  station := record[4]
  ring := ring
  index := index
  status := status
  extra := extra
  data := data

/-- `s` with the control request `q` READY and answered so (R146). -/
def State.controlAnswered (s : State) (q : ControlRequest) (status : Status)
    (extra data : List Byte) : State :=
  { s with sc := { s.sc with request := some { q with
      stage := .ready (answerTo q.record .control q.index status extra data) } } }

/-- `s` with the control request `q` WAITING (R146). -/
def State.controlWaiting (s : State) (q : ControlRequest) : State :=
  { s with sc := { s.sc with request := some { q with stage := .waiting false } } }

/-- `s` with the taken transfer request `t` answered at once: its completion is the non-slot completion and
stands at the end of the transfer ready list (R175, R177). -/
def State.transferAnswered (s : State) (t : TakenRecord) (status : Status) (data : List Byte) : State :=
  { s with hqi := { s.hqi with
      taken := none
      nonSlot := some (answerTo t.record .transfer t.index status [] data)
      readyList := s.hqi.readyList ++ [.nonSlot] } }

/-- `s` with one station entry changed. -/
def State.withStation (s : State) (k : StationId) (e : Station) : State :=
  { s with st := { s.st with entries := s.st.entries.set k e } }

/-- `s` with one slot changed. -/
def State.withSlot (s : State) (i : SlotId) (x : Slot) : State :=
  { s with tt := { s.tt with slots := s.tt.slots.set i x } }

/-! ## Host accesses -/

/-- The three rows that write CONTROL. -/
def controlWrites (value : Word) : List Instr :=
  [.enable value, .controllerReset value, .intEnableWrite value]

/-- The 32-bit word `i` of the descriptor block, least significant byte first. -/
def descriptorNat (d : Vector Byte 24) (i : Fin 6) : Nat :=
  d[4 * i.val].toNat + 2 ^ 8 * d[4 * i.val + 1].toNat + 2 ^ 16 * d[4 * i.val + 2].toNat
    + 2 ^ 24 * d[4 * i.val + 3].toNat

/-- R191: bases that are multiples of 64 and counts that are one of the seven values. -/
def descriptorValid (d : Vector Byte 24) : Prop :=
  (∀ i ∈ [0, 2, 4], descriptorNat d i % 64 = 0)
    ∧ ∀ i ∈ [1, 3, 5], descriptorNat d i ∈ [16, 32, 64, 128, 256, 512, 1024]

/-! ## Records -/

/-- The number a list of bytes holds, least significant byte first. -/
def littleEndian : List Byte → Nat
  | [] => 0
  | b :: rest => b.toNat + 256 * littleEndian rest

/-- R172: the record must stay as the held transfer copy: a remote request with no FREE slot, or a
WRITE_OUTPUTS for a station whose confirm results list is not empty. -/
def State.Holds (s : State) (r : Record) : Prop :=
  (r[0] ∈ [0x25#8, 0x26#8, 0x27#8] ∧ ∀ i, (s.slot i).state ≠ .free)
    ∨ (r[0] = 0x21#8 ∧ ∃ k : StationId, r[4].toNat = k.val + 1 ∧ (s.station k).results ≠ [])

/-- No control request is READY. -/
def State.NoneReady (s : State) : Prop := ∀ q c, s.sc.request = some q → q.stage ≠ .ready c

/-- The station of lowest address for which `p` holds. -/
def IsFirst (p : StationId → Prop) (k : StationId) : Prop := p k ∧ ∀ j, j < k → ¬ p j

/-- The number in the `n` bytes of a record from byte `i` on. -/
def fieldAt (r : Record) (i n : Nat) : Nat := littleEndian ((r.toList.drop i).take n)

/-! ## Station entries and slots after an event -/

/-- R48: the state report of an entry that moves to `dest`, a state other than UNUSED, with the session's
STATION_STATE option as given. -/
def Station.reportAfter (stateEvents : Bool) (dest : StationState) (e : Station) : StateReport :=
  if stateEvents = true ∧ e.state ≠ dest then
    { e.report with
      transitions := satInc e.report.transitions
      pending := e.report.pending || !e.report.inStaging }
  else e.report

/-- R80: the entry with its pending confirm, if any, ended with a status. -/
def Station.confirmEnded (status : Status) (e : Station) : Station :=
  match e.confirm with
  | none => e
  | some c =>
    { e with
      confirm := none
      results := e.results ++ [{ tag := c.tag, index := c.index, status := status }] }

/-- The entries that the confirms pending at the stations `ks` put into the transfer ready list, in the
order of `ks`. -/
def State.confirmEntries (s : State) (ks : List StationId) : List ReadyEntry :=
  (ks.filter fun k => (s.station k).confirm.isSome).map .confirm

/-- The slot is QUEUED or in BACKOFF. -/
def Slot.waiting (x : Slot) : Bool := x.state = .queued || x.state = .backoff

/-- R111: the slot DONE with a status, data and data length. -/
def Slot.doneWith (status : Status) (data : List Byte) (length : Nat) (x : Slot) : Slot :=
  { x with
    state := .done
    data := data
    form := none
    abortPending := false
    backoffTimer := none
    result := some { status := status, dataLength := length } }

/-- R113: `u` is `t` after the QUEUED and BACKOFF slots of the stations `ks` have ended with a status, each
FIFO front first. -/
def TransactionTable.EndsWaiting (t u : TransactionTable) (ks : List StationId) (status : Status) : Prop :=
  (∀ i : SlotId, u.slots[i] =
    if t.slots[i].waiting = true ∧ ∃ k ∈ ks, t.slots[i].station = some k then
      t.slots[i].doneWith status t.slots[i].data 0
    else t.slots[i])
  ∧ (∀ k : StationId, u.fifos[k] =
    if k ∈ ks then t.fifos[k].filter (fun i => !t.slots[i].waiting) else t.fifos[k])
  ∧ u.doneQueue = t.doneQueue ++ ks.flatMap (fun k => t.fifos[k].filter (fun i => t.slots[i].waiting))
  ∧ u = { t with slots := u.slots, fifos := u.fifos, doneQueue := u.doneQueue }

/-- End causes one after the other. -/
def FaultList.endCauses (pairs : List (FaultKind × Nat)) (f : FaultList) : FaultList :=
  pairs.foldl (fun g p => g.endCause p.1 p.2) f

/-- The three causes of a station. -/
def stationCauses (k : StationId) : List (FaultKind × Nat) :=
  [(.stationLost, k.val + 1), (.stationMismatch, k.val + 1), (.stationError, k.val + 1)]

/-! ## The end of an exchange -/

/-- R12: the reply with one more character; after a length above 34 characters are discarded. -/
def replyWith (rx : List Byte) (c : Character) : List Byte :=
  if 4 ≤ rx.length ∧ 34 < (rx.getD 3 0).toNat then rx else rx ++ [c.data]

/-- R11, R12, R14: the outcome that a line event fixes, if it fixes one. -/
def State.outcomeAt (e : OutcomeEvent) (s : State) : Option LineOutcome :=
  match e with
  | .responseTimeout =>
    if s.lc.state = .awaiting ∧ s.lc.responseTimer = some 0 then some (.failed .timeout) else none
  | .interByteTimeout =>
    if s.lc.state = .receiving ∧ s.lc.responseTimer = some 0 then some (.failed .malformed) else none
  | .character c =>
    let rx := replyWith s.lc.rx c
    match s.lc.exchange with
    | none => none
    | some x =>
      if s.lc.state = .receiving ∧ 4 ≤ rx.length ∧ (rx.getD 3 0).toNat ≤ 34
          ∧ rx.length = 6 + (rx.getD 3 0).toNat then
        some (acceptReply x rx (s.lc.corrupt || c.framingError))
      else none

/-- The row of a line event. -/
def rowOf : OutcomeEvent → Instr
  | .character c => .replyCharacter c
  | .responseTimeout => .responseTimeout
  | .interByteTimeout => .interByteTimeout

/-- R14, R15, R52: `s` with the exchange in hand over: the LC in GAP with its gap timer loaded, the CS with
nothing in hand, and a request that waits for the line told so. What the outcome does at its owner is not
in it. -/
def State.exchangeOver (e : OutcomeEvent) (s : State) : State :=
  { s with
    lc := { s.lc with
      state := .gap
      exchange := none
      responseTimer := none
      gapTimer := some (s.lc.params.elim 0 LineParams.gapTime)
      rx := match e with
        | .character c => replyWith s.lc.rx c
        | .responseTimeout | .interByteTimeout => s.lc.rx
      corrupt := match e with
        | .character c => s.lc.corrupt || c.framingError
        | .responseTimeout | .interByteTimeout => s.lc.corrupt }
    cs := { s.cs with inHand := none, activityEnd := some s.now }
    sc := { s.sc with request := s.sc.request.map fun q => { q with stage := q.stage.lineReported } } }

/-- R20: `s` with one unexpected event counted: LINE_FAULT is raised from the fourth of a cycle on, with the
count as detail, 255 at most. -/
def State.trafficCounted (s : State) : State :=
  { s with
    lc := { s.lc with
      unexpected := s.lc.unexpected + 1
      perCycle := satInc s.lc.perCycle }
    fl := if 4 ≤ (satInc s.lc.perCycle).toNat then
        s.fl.raise .lineFault 0 (BitVec.ofNat 8 (min (satInc s.lc.perCycle).toNat 255)) s.cs.cycle
      else s.fl }

/-- R14, R20: a MISADDRESSED outcome is also counted as unexpected traffic. -/
def State.afterOutcome (o : LineOutcome) (s : State) : State :=
  if o = .failed .misaddressed then s.trafficCounted else s

end Sys2Proof.Machine
end

