-- ==== Sys2Proof/Certificates/Slice0/Obligations.lean ====
section
/-! DEFINITION. The statements for the provers: what each command does to the state and what it leaves
alone, and the invariants every step keeps. -/

open Sys2Proof Sys2Proof.Machine

/-! ## Steps, time and resets -/

/-- A step takes the command at the front of the queue and is that command's meaning on the state with the
queue's rest. -/
def Obligations.StepRunsFrontCommand : Prop :=
  ∀ (c : Instr) (rest : List Instr) (s : State), s.pending = c :: rest →
    step s = exec c { s with pending := rest }

/-- With no command waiting, one microsecond passes: every running timer counts down by 1 and nothing else
moves; in HALTED the timers stand still (R23, R88, R122); and while an expiry is due, time waits for it. The
tick itself is the model's choice (log entry 4). -/
def Obligations.EmptyQueueTicksTimebase : Prop :=
  ∀ s : State, s.pending = [] →
    (s.sc.engine = .halted → step s = .next { s with now := s.now + 1 })
    ∧ (s.sc.engine ≠ .halted → some 0 ∈ s.timers → step s = .next s)
    ∧ (s.sc.engine ≠ .halted → some 0 ∉ s.timers → ∃ t, step s = .next t
        ∧ t.now = s.now + 1
        ∧ t.timers = s.timers.map (Option.map (· - 1))
        ∧ t.sc = s.sc ∧ t.fl = s.fl ∧ t.bus = s.bus ∧ t.pending = s.pending
        ∧ t.hqi = { s.hqi with ageTimer := t.hqi.ageTimer }
        ∧ t.hm = { s.hm with timer := t.hm.timer }
        ∧ t.cs = { s.cs with cycleTimer := t.cs.cycleTimer, emptyGapTimer := t.cs.emptyGapTimer }
        ∧ t.lc = { s.lc with responseTimer := t.lc.responseTimer, gapTimer := t.lc.gapTimer, quietTimer := t.lc.quietTimer }
        ∧ t.st.stateEvents = s.st.stateEvents
        ∧ (∀ k, t.station k = { s.station k with restartTimer := (t.station k).restartTimer })
        ∧ t.tt = { s.tt with slots := t.tt.slots }
        ∧ (∀ i, t.slot i = { s.slot i with backoffTimer := (t.slot i).backoffTimer }))

/-- R161, R165: what a power-on reset leaves, from wherever the part stands: every register, pin, field, station
entry and slot at its reset value; and an access while RESET_N is low finds the part so, where a read returns 0
and a write has no effect. The model's choices: RESET_N low as part of an access, an error answer there, the
timebase reading, the slave port's answer at rest, and that waiting commands stay (log entries 5, 6 and 7); the STATION_STATE option off (log entry
26); the model's own fields `taken` (log entry 2) and `exchanged` (log entry 19). -/
def Obligations.PowerOnResetValues : Prop :=
  ∀ s : State, ∃ t, exec .powerOnReset s = .next t
    ∧ t.readRegister .status = 0x40#32 ∧ t.readRegister .id = 0x00010D31#32
    ∧ (∀ r, r ≠ .id → r ≠ .status → t.readRegister r = 0)
    ∧ t.int = false ∧ t.lc.driverEnable = false ∧ t.lc.txLevels = [true] ∧ t.lc.receiverEnabled = false
    ∧ t.sc = { engine := .off, haltReason := .none, resetCause := .power, descriptorRead := none,
               teardown := .none, request := none }
    ∧ t.hqi = {
        enable := false, intEnable := false, ringBase := 0, attachment := none
        controlHead := 0, transferHead := 0, controlTail := 0, transferTail := 0
        completionTail := 0, completionHead := 0, phase := true
        controlTailMark := false, transferTailMark := false, completionHeadMark := false
        fetch := none, heldCopy := none, taken := none, nonSlot := none, readyList := [], staging := []
        post := none, threshold := 1, delay := 0, ageTimer := none, delayReached := false }
    ∧ t.st.stateEvents = false
    ∧ (∀ k, t.station k = {
        state := .unused, expectedType := 0, inputSize := 0, outputSize := 0, learned := none
        divisor := 1, missLimit := 1, missCount := 0, restartDelay := 1, restartTimer := none
        outputImage := [], safeImage := [], inputImage := [], inputsValid := false
        lastReported := [], watchMask := []
        change := { pending := false, inStaging := false, bits := [], coalesce := 0 }
        report := { pending := false, inStaging := false, transitions := 0 }
        confirm := none, toggle := false, resync := false, removePending := false, statusCode := 0
        counters := { pollsSent := 0, goodReplies := 0, timeouts := 0, crcErrors := 0, waits := 0, refuses := 0 }
        results := [] })
    ∧ (∀ i, t.slot i = {
        state := .free, kind := none, tag := 0, index := 0, station := none, remoteAddress := none
        count := 0, data := [], attemptCount := 0, waitCount := 0, fitPass := 0, form := none
        doubtful := false, abortPending := false, backoffTimer := none, result := none })
    ∧ (∀ k, t.fifo k = []) ∧ t.tt.age = [] ∧ t.tt.doneQueue = []
    ∧ t.tt.attemptLimit = 1 ∧ t.tt.waitLimit = 0 ∧ t.tt.defaultBackoff = 100 ∧ t.tt.ending = none
    ∧ t.lc = {
        state := .off, params := none, responseTimer := none, gapTimer := none, quietTimer := none
        tx := [], rx := [], corrupt := false, exchange := none, held := none
        run := false, perCycle := 0, unexpected := 0 }
    ∧ t.cs = {
        phase := .stopped, mode := .fixed, period := 0, budget := 1, syncOption := false, cycle := 0
        startTime := 0, due := none, cycleTimer := none, emptyGapTimer := none, pollList := []
        pollsSent := false, probePointer := 0, attempts := 0, inHand := none, activityEnd := none
        overrun := false, runLength := 0, lastBusy := none, minBusy := none, maxBusy := none
        overrunCount := 0, exchanged := false }
    ∧ t.hm = { holdTime := 0, timer := none, safe := false,
               event := { pending := false, inStaging := false, count := 0 } }
    ∧ t.fl = { entries := [], overflow := 0, pending := false, inStaging := false, changes := 0,
               carried := .none }
    ∧ t.now = 0 ∧ t.bus = .none ∧ t.pending = s.pending
    ∧ (∀ a : SlaveAccess, a.inReset = true → a.offset < 0x40 → exec (.badRegisterAccess a) s = .next { t with
        bus := if a.width = 4 ∧ a.offset % 4 = 0 ∧ a.offset < 0x28 then
            (if a.write then .written else .read 0)
          else .error })

/-! ## The host bus -/

/-- R144, R162: a write to CONTROL enables, resets or masks the interrupt, by ENABLE as written and as it
reads. That the three rows act alike, and that a reset leaves the waiting commands and the bus answer of the
write, is the model's choice (log entries 1, 6 and 7). -/
def Obligations.ControlWriteEnablesResetsOrMasks : Prop :=
  ∀ (s : State) (v : Word), ∀ c ∈ controlWrites v,
    (s.hqi.enable = false → v.getLsbD 0 = true → exec c s = .next { s with
        sc := { s.sc with haltReason := .none, descriptorRead := some s.hqi.ringBase }
        hqi := { s.hqi with enable := true, intEnable := v.getLsbD 1 }
        bus := .written })
    ∧ (s.hqi.enable = true → v.getLsbD 0 = false → ∃ t, exec c s = .next t
        ∧ t = { State.reset with
            sc := { State.reset.sc with resetCause := .controller }
            bus := .written
            pending := s.pending }
        ∧ t.readRegister .status = 0x80#32 ∧ t.readRegister .control = 0
        ∧ t.readRegister .ringBase = 0 ∧ t.int = false ∧ t.lc.driverEnable = false)
    ∧ (v.getLsbD 0 = s.hqi.enable → ∃ t, exec c s = .next t
        ∧ t = { s with hqi := { s.hqi with intEnable := v.getLsbD 1 }, bus := .written }
        ∧ t.int = (s.intPending && v.getLsbD 1))

/-- R168, R170: a tail write is judged by the ring's entry count as a whole 32-bit value; one that leaves
nothing pending discards the copy of the record at the head; in OFF it is ignored. That a later write does not
bring a withdrawn copy in flight back is read as log entry 19 says. -/
def Obligations.SubmissionTailWriteJudged : Prop :=
  ∀ (s : State) (v : Word),
    (s.sc.engine = .off → ∀ ring,
      exec (.submissionTailWrite ring v) s = .next { s with bus := .written })
    ∧ ∀ a : RingAttachment, s.hqi.attachment = some a → s.sc.engine ≠ .off →
      (a.control.count ≤ v.toNat → exec (.submissionTailWrite .control v) s = .next { s with
          hqi := { s.hqi with controlTailMark := true }
          bus := .written })
      ∧ (a.transfer.count ≤ v.toNat → exec (.submissionTailWrite .transfer v) s = .next { s with
          hqi := { s.hqi with transferTailMark := true }
          bus := .written })
      ∧ (s.hqi.controlHead < a.control.count → v.toNat < a.control.count →
          exec (.submissionTailWrite .control v) s = .next { s with
            hqi := { s.hqi with
              controlTail := v.toNat
              controlTailMark := false
              fetch := if v.toNat ≠ s.hqi.controlHead then s.hqi.fetch else s.hqi.fetch.map
                (fun f => if f.ring = .control then { f with withdrawn := true } else f) }
            bus := .written })
      ∧ (s.hqi.transferHead < a.transfer.count → v.toNat < a.transfer.count →
          exec (.submissionTailWrite .transfer v) s = .next { s with
            hqi := { s.hqi with
              transferTail := v.toNat
              transferTailMark := false
              heldCopy := if v.toNat ≠ s.hqi.transferHead then s.hqi.heldCopy else none
              fetch := if v.toNat ≠ s.hqi.transferHead then s.hqi.fetch else s.hqi.fetch.map
                (fun f => if f.ring = .transfer then { f with withdrawn := true } else f) }
            bus := .written })

/-- R168, R169, R185: a COMPLETION_HEAD write is valid when the value lies below the entry count and on the
span from head to tail; a refused one sets the mark; one that empties the ring stops the age timer. -/
def Obligations.CompletionHeadWriteJudged : Prop :=
  ∀ (s : State) (v : Word),
    (s.sc.engine = .off → exec (.completionHeadWrite v) s = .next { s with bus := .written })
    ∧ ∀ a : RingAttachment, s.hqi.attachment = some a → s.sc.engine ≠ .off →
      s.hqi.completionHead < a.completion.count → s.hqi.completionTail < a.completion.count →
      let n := a.completion.count
      let fromHead := fun i => (i + n - s.hqi.completionHead) % n
      (n ≤ v.toNat ∨ fromHead s.hqi.completionTail < fromHead v.toNat →
          exec (.completionHeadWrite v) s = .next { s with
            hqi := { s.hqi with completionHeadMark := true }
            bus := .written })
      ∧ (v.toNat < n → fromHead v.toNat ≤ fromHead s.hqi.completionTail → v.toNat ≠ s.hqi.completionTail →
          exec (.completionHeadWrite v) s = .next { s with
            hqi := { s.hqi with completionHead := v.toNat, completionHeadMark := false }
            bus := .written })
      ∧ (v.toNat = s.hqi.completionTail →
          exec (.completionHeadWrite v) s = .next { s with
            hqi := { s.hqi with
              completionHead := v.toNat
              completionHeadMark := false
              ageTimer := none
              delayReached := false }
            bus := .written })

/-- R138, R165, R166: RING_BASE stores what is written, a write to a read-only register changes nothing, a bad
access is answered with an error and changes nothing, and a read has no effect on the part and returns the
register: the fixed word of ID, the fields of CONTROL and STATUS in their places, RING_BASE, and the indices. That
the answer stands in a field of the state is the model's choice (log entry 6). -/
def Obligations.OtherAccessesAnswered : Prop :=
  (∀ (s : State) (v : Word), exec (.otherRegisterWrite .ringBase v) s = .next { s with
      hqi := { s.hqi with ringBase := v }
      bus := .written })
  ∧ (∀ (s : State) (v : Word), ∀ r ∈ [Register.id, .status, .controlHead, .transferHead, .completionTail],
      exec (.otherRegisterWrite r v) s = .next { s with bus := .written })
  ∧ (∀ (s : State) (a : SlaveAccess), a.inReset = false → a.offset < 0x40 →
      a.width ≠ 4 ∨ a.offset % 4 ≠ 0 ∨ 0x28 ≤ a.offset →
      exec (.badRegisterAccess a) s = .next { s with bus := .error })
  ∧ (∀ (s : State) (v : Word) (r : Register),
      exec (.badRegisterAccess { write := false, offset := r.offset, width := 4, value := v }) s
        = .next { s with bus := .read (s.readRegister r) })
  ∧ (∀ s : State, s.readRegister .id = 0x00010D31#32 ∧ s.readRegister .ringBase = s.hqi.ringBase
    ∧ (s.readRegister .control).toNat = s.hqi.enable.toNat + 2 * s.hqi.intEnable.toNat
    ∧ (s.hqi.controlTail < 1024 → (s.readRegister .controlTail).toNat = s.hqi.controlTail)
    ∧ (s.hqi.transferTail < 1024 → (s.readRegister .transferTail).toNat = s.hqi.transferTail)
    ∧ (s.hqi.completionHead < 1024 → (s.readRegister .completionHead).toNat = s.hqi.completionHead)
    ∧ (s.hqi.controlHead < 1024 → (s.readRegister .controlHead).toNat = s.hqi.controlHead)
    ∧ (s.hqi.transferHead < 1024 → (s.readRegister .transferHead).toNat = s.hqi.transferHead)
    ∧ (s.hqi.completionTail < 1024 → (s.readRegister .completionTail).toNat = s.hqi.completionTail))
  ∧ (∀ s : State, s.fl.entries.length ≤ 16 → (∀ e ∈ s.fl.entries, e.station ≤ 31) →
    let engine := match s.sc.engine with
      | .off => 0 | .idle => 1 | .config => 2 | .run => 3 | .closing => 4 | .halted => 5
    let halt := match s.sc.haltReason with
      | .none => 0 | .badDescriptor => 1 | .fetchError => 2 | .postError => 3
    let cause := match s.sc.resetCause with
      | .power => 1 | .controller => 2
    let head := match s.fl.entries with
      | [] => (0, 0)
      | e :: _ => (match e.kind with
        | .stationLost => 1 | .stationMismatch => 2 | .stationError => 3 | .lineFault => 4
        | .cycleOverrun => 5 | .holdExpired => 6, e.station)
    let mark := s.hqi.controlTailMark || s.hqi.transferTailMark || s.hqi.completionHeadMark
    (s.readRegister .status).toNat = engine + 2 ^ 3 * s.hm.safe.toNat + 2 ^ 4 * halt + 2 ^ 6 * cause
      + 2 ^ 8 * s.fl.entries.length + 2 ^ 13 * (decide (s.fl.overflow ≠ 0)).toNat + 2 ^ 14 * mark.toNat
      + 2 ^ 15 * (decide (s.sc.engine = .halted ∨ s.hqi.threshold ≤ s.hqi.unread
        ∨ (1 ≤ s.hqi.unread ∧ s.hqi.delayReached = true))).toNat
      + 2 ^ 16 * head.1 + 2 ^ 24 * head.2)

/-! ## The descriptor and the rings -/

/-- R145, R167, R191: a valid descriptor attaches the rings and takes the engine to IDLE; an invalid one or
an error response leaves it OFF with BAD_DESCRIPTOR and ENABLE reading 0. -/
def Obligations.DescriptorReadJudged : Prop :=
  ∀ s : State, s.sc.engine = .off → s.sc.descriptorRead.isSome = true →
    (∀ d, descriptorValid d → ∃ t a, exec (.descriptorReadEnd (.data d)) s = .next t
      ∧ t = { s with
          sc := { s.sc with engine := .idle, descriptorRead := none }
          hqi := { s.hqi with
            attachment := some a
            controlHead := 0
            transferHead := 0
            controlTail := 0
            transferTail := 0
            completionTail := 0
            completionHead := 0
            phase := true
            controlTailMark := false
            transferTailMark := false
            completionHeadMark := false
            ageTimer := none
            delayReached := false
            threshold := 1
            delay := 0 } }
      ∧ a.control.base.toNat = descriptorNat d 0 ∧ a.control.count = descriptorNat d 1
      ∧ a.transfer.base.toNat = descriptorNat d 2 ∧ a.transfer.count = descriptorNat d 3
      ∧ a.completion.base.toNat = descriptorNat d 4 ∧ a.completion.count = descriptorNat d 5)
    ∧ (∀ r : DescriptorEnd, (r = .error ∨ ∃ d, r = .data d ∧ ¬ descriptorValid d) →
      exec (.descriptorReadEnd r) s = .next { s with
        sc := { s.sc with descriptorRead := none, haltReason := .badDescriptor }
        hqi := { s.hqi with enable := false } })

/-- R171, R173: with the port free and no post ready to go first, the fetch engine reads at the head of the
control ring, if a record is pending there and no control request is in progress, and otherwise at the head
of the transfer ring, if a record is pending there and nothing holds that ring. That a taken record not yet
applied holds the transfer ring is the model's choice (log entry 2), and so is FETCH_START as a command of its own
that does nothing where nothing can start (log entry 22). -/
def Obligations.FetchStartServesControlFirst : Prop :=
  ∀ s : State,
    (s.sc.engine.serving = false ∨ s.hqi.fetch ≠ none ∨ s.hqi.post ≠ none → exec .fetchStart s = .next s)
    ∧ (s.sc.engine.serving = true → s.hqi.fetch = none → s.hqi.post = none →
      let free := s.hqi.staging = [] ∨ s.hqi.ringFull = true
      let control := 1 ≤ s.hqi.controlPending ∧ s.sc.request = none
      let transfer := 1 ≤ s.hqi.transferPending ∧ s.hqi.heldCopy = none ∧ s.hqi.nonSlot = none
        ∧ s.hqi.taken = none
      (¬ free → exec .fetchStart s = .next s)
      ∧ (free → control → exec .fetchStart s = .next { s with hqi := { s.hqi with
          fetch := some { ring := .control, index := s.hqi.controlHead, withdrawn := false } } })
      ∧ (free → ¬ control → transfer → exec .fetchStart s = .next { s with hqi := { s.hqi with
          fetch := some { ring := .transfer, index := s.hqi.transferHead, withdrawn := false } } })
      ∧ (free → ¬ control → ¬ transfer → exec .fetchStart s = .next s))

/-- R170, R172: at the end of a fetch the record is discarded if a tail write withdrew it, and taken
otherwise (the head advances), but for a transfer record that must stay as the held copy. A taken control
record is the control request in progress at stage APPLYING; a taken transfer record waits for its owner
(the model's latch, log entry 2). A held copy is taken once its case has ended. That a withdrawn copy is discarded
even with a record pending again is read as log entry 19 says, and that HELD_COPY_TAKEN does nothing while the
case lasts is the model's choice (log entry 22). -/
def Obligations.FetchEndTakesHoldsOrDiscards : Prop :=
  ∀ (s : State) (r : Record) (a : RingAttachment), s.hqi.attachment = some a →
    (∀ f, s.hqi.fetch = some f →
      (f.withdrawn = true ∨ s.hqi.pendingIn f.ring = 0 →
        exec (.fetchEnd r) s = .next { s with hqi := { s.hqi with fetch := none } })
      ∧ (f.withdrawn = false → 1 ≤ s.hqi.pendingIn f.ring →
        (f.ring = .control → exec (.fetchEnd r) s = .next { s with
          hqi := { s.hqi with
            fetch := none
            controlHead := (s.hqi.controlHead + 1) % a.control.count }
          sc := { s.sc with
            request := some { record := r, index := s.hqi.controlHead, stage := .applying } } })
        ∧ (f.ring = .transfer → s.Holds r → exec (.fetchEnd r) s = .next { s with
          hqi := { s.hqi with fetch := none, heldCopy := some r } })
        ∧ (f.ring = .transfer → ¬ s.Holds r → exec (.fetchEnd r) s = .next { s with
          hqi := { s.hqi with
            fetch := none
            transferHead := (s.hqi.transferHead + 1) % a.transfer.count
            heldCopy := none
            taken := some { record := r, index := s.hqi.transferHead } } })))
    ∧ (s.hqi.heldCopy = some r →
      (s.Holds r → exec .heldCopyTaken s = .next s)
      ∧ (¬ s.Holds r → exec .heldCopyTaken s = .next { s with
          hqi := { s.hqi with
            transferHead := (s.hqi.transferHead + 1) % a.transfer.count
            heldCopy := none
            taken := some { record := r, index := s.hqi.transferHead } } }))

/-- R174: the common checks, in order, with the kind codes and the stations as bytes; a record that passes is
left for its owner. A transfer record waits in the model's latch (log entry 2), and INVALID_REQUEST_RECORD does
nothing with a record that passes (the model's choice, log entry 1). -/
def Obligations.CommonChecksRefuseInOrder : Prop :=
  ∀ (s : State) (r : Record),
    let control := 0x01 ≤ r[0].toNat ∧ r[0].toNat ≤ 0x0C
    let transfer := 0x21 ≤ r[0].toNat ∧ r[0].toNat ≤ 0x27
    let names := r[0].toNat ∈ [0x05, 0x06, 0x0B, 0x21, 0x22, 0x23, 0x25, 0x26, 0x27]
    let station := 1 ≤ r[4].toNat ∧ r[4].toNat ≤ 31
    (∀ q, s.sc.request = some q → q.record = r → q.stage = .applying →
      let outcome := exec (.invalidRequestRecord .control) s
      let refused := fun d => Host.Outcome.next (s.controlAnswered q (.rejected d) [] [])
      (¬ control → ¬ transfer → outcome = refused .unknownKind)
      ∧ (transfer → outcome = refused .wrongRing)
      ∧ (control → names → ¬ station → outcome = refused .badStation)
      ∧ (control → names → station → 32 < r[5].toNat → outcome = refused .badLength)
      ∧ (control → (¬ names ∨ (station ∧ r[5].toNat ≤ 32)) → outcome = .next s))
    ∧ (∀ t, s.hqi.taken = some t → t.record = r →
      let outcome := exec (.invalidRequestRecord .transfer) s
      let refused := fun d => Host.Outcome.next (s.transferAnswered t (.rejected d) [])
      (¬ control → ¬ transfer → outcome = refused .unknownKind)
      ∧ (control → outcome = refused .wrongRing)
      ∧ (transfer → names → ¬ station → outcome = refused .badStation)
      ∧ (transfer → names → station → 32 < r[5].toNat → outcome = refused .badLength)
      ∧ (transfer → (¬ names ∨ (station ∧ r[5].toNat ≤ 32)) → outcome = .next s))

/-- R178, R179, R112, R146, R177: a free place goes first to the READY control request, then to the DONE
slot at the front of the done queue, then to the front of the transfer ready list; the owner makes the
record and lets go of the claim. One grant a command is the model's choice (log entry 22). -/
def Obligations.GrantsServeCompletionsInOrder : Prop :=
  ∀ s : State,
    (s.sc.engine.serving = false ∨ 8 ≤ s.hqi.staging.length → exec .stagingGrant s = .next s)
    ∧ (s.sc.engine.serving = true → s.hqi.staging.length < 8 →
      let done := fun c : Completion =>
        ({ event := false, kind := c.kind, tag := c.tag, status := c.status, station := c.station
           index := c.index, fromTransfer := decide (c.ring = .transfer)
           controlHead := s.hqi.controlHead, transferHead := s.hqi.transferHead, count := 0
           cycle := s.cs.cycle, extra := c.extra, data := c.data } : CompletionRecord)
      let staged := fun c => s.hqi.staging ++ [{ record := done c, owner := Owner.request }]
      (∀ q c, s.sc.request = some q → q.stage = .ready c →
        exec .stagingGrant s = .next { s with
          hqi := { s.hqi with staging := staged c }
          sc := { s.sc with request := none } })
      ∧ (s.NoneReady → ∀ i rest kind k result, s.tt.doneQueue = i :: rest → (s.slot i).kind = some kind →
        (s.slot i).station = some k → (s.slot i).result = some result →
        exec .stagingGrant s = .next { s with
          hqi := { s.hqi with staging := staged {
            kind := match kind with | .read => 0x25 | .write => 0x26 | .restart => 0x27
            tag := (s.slot i).tag
            station := BitVec.ofNat 8 (k.val + 1)
            ring := .transfer
            index := (s.slot i).index
            status := result.status
            extra := [BitVec.ofNat 8 (s.slot i).attemptCount, BitVec.ofNat 8 (s.slot i).waitCount]
            data := (s.slot i).data.take result.dataLength } }
          tt := { s.tt with
            slots := s.tt.slots.set i { s.slot i with state := .free }
            doneQueue := s.tt.doneQueue.filter (· ≠ i)
            age := s.tt.age.filter (· ≠ i) } })
      ∧ (s.NoneReady → s.tt.doneQueue = [] → ∀ rest c, s.hqi.readyList = .nonSlot :: rest →
        s.hqi.nonSlot = some c →
        exec .stagingGrant s = .next { s with hqi := { s.hqi with
          staging := staged c
          readyList := rest
          nonSlot := none } })
      ∧ (s.NoneReady → s.tt.doneQueue = [] → ∀ k rest c others, s.hqi.readyList = .confirm k :: rest →
        (s.station k).results = c :: others →
        exec .stagingGrant s = .next (State.withStation { s with hqi := { s.hqi with
          staging := staged {
            kind := 0x21, tag := c.tag, station := BitVec.ofNat 8 (k.val + 1), ring := .transfer
            index := c.index, status := c.status, extra := [], data := [] }
          readyList := rest } } k { s.station k with results := others })))

/-- R178, R49, R85, R96, R136: with no completion waiting, the place goes to the SAFE event, then the FAULT
event, then the lowest station with a pending state report, then the lowest with a pending change report;
the source makes the record, clears its counts and its pending flag and sets its in-staging mark. The net change
count of a CHANGE record is the number of watched input bits that differ from the last reported image. That STAGING_GRANT does nothing with no event pending is the model's choice
(log entry 22). -/
def Obligations.GrantsServeEventsInOrder : Prop :=
  (∀ e : Station, e.netChange = ((e.inputImage.zip (e.lastReported.zip e.watchMask)).map fun x =>
    ((List.range 8).filter fun i => (x.1.getLsbD i ^^ x.2.1.getLsbD i) && x.2.2.getLsbD i).length).sum)
  ∧ ∀ s : State, s.sc.engine.serving = true → s.hqi.staging.length < 8 → s.NoneReady → s.tt.doneQueue = [] →
    s.hqi.readyList = [] →
    let event := fun (kind station : Byte) (count : Half) (extra data : List Byte) =>
      ({ event := true, kind := kind, tag := 0, status := .ok, station := station, index := 0
         fromTransfer := false, controlHead := s.hqi.controlHead, transferHead := s.hqi.transferHead
         count := count, cycle := s.cs.cycle, extra := extra, data := data } : CompletionRecord)
    let staged := fun r o => { s.hqi with staging := s.hqi.staging ++ [{ record := r, owner := o }] }
    let faultHead := fun present : Byte =>
      [BitVec.ofNat 8 s.fl.entries.length] ++ halfBytes s.fl.overflow ++ [present]
    let faultGranted := { s.fl with pending := false, changes := 0, carried := .none, inStaging := true }
    let cycles := fun e : FaultEntry => wordBytes e.firstCycle ++ wordBytes e.lastCycle
    (s.hm.event.pending = true → exec .stagingGrant s = .next { s with
      hqi := staged (event 0x04 0 (s.hm.event.count.zeroExtend 16)
        ([if s.hm.safe then 1 else 0, 0] ++ halfBytes (BitVec.ofNat 16 s.hm.holdTime)) []) .safe
      hm := { s.hm with event := { pending := false, inStaging := true, count := 0 } } })
    ∧ (s.hm.event.pending = false → s.fl.pending = true →
      (s.fl.carried = .none → exec .stagingGrant s = .next { s with
        hqi := staged (event 0x03 0 s.fl.changes (faultHead 0) []) .fault
        fl := faultGranted })
      ∧ (∀ kind station i e, s.fl.Sound → s.fl.carried = .entry kind station → s.fl.entries[i]? = some e →
        e.kind = kind → e.station = station → exec .stagingGrant s = .next { s with
        hqi := staged (event 0x03 (BitVec.ofNat 8 station) s.fl.changes (faultHead 1 ++ cycles e)
          (e.report i false)) .fault
        fl := faultGranted })
      ∧ (∀ e i, s.fl.carried = .removed e i → exec .stagingGrant s = .next { s with
        hqi := staged (event 0x03 (BitVec.ofNat 8 e.station) s.fl.changes (faultHead 1 ++ cycles e)
          (e.report i true)) .fault
        fl := faultGranted }))
    ∧ (s.hm.event.pending = false → s.fl.pending = false →
      (∀ k, IsFirst (fun j => (s.station j).report.pending = true) k →
        exec .stagingGrant s = .next (State.withStation { s with
          hqi := staged (event 0x02 (BitVec.ofNat 8 (k.val + 1))
            ((s.station k).report.transitions.zeroExtend 16) [(s.station k).state.code] [])
            (.stationState k) } k
          { s.station k with report := { pending := false, inStaging := true, transitions := 0 } }))
      ∧ ((∀ j, (s.station j).report.pending = false) →
        (∀ k, IsFirst (fun j => (s.station j).change.pending = true) k →
          exec .stagingGrant s = .next (State.withStation { s with
            hqi := staged (event 0x01 (BitVec.ofNat 8 (k.val + 1))
              ((s.station k).change.coalesce.zeroExtend 16)
              [BitVec.ofNat 8 (s.station k).netChange, BitVec.ofNat 8 (s.station k).inputSize]
              ((s.station k).inputImage ++ (s.station k).change.bits)) (.change k) } k
            { s.station k with
              lastReported := (s.station k).inputImage
              change := { pending := false, inStaging := true
                          bits := List.replicate (s.station k).inputSize 0, coalesce := 0 } }))
        ∧ ((∀ j, (s.station j).change.pending = false) → exec .stagingGrant s = .next s)))

/-- The bytes of a posted record (chapter Record Formats and Codes, THE COMPLETION RECORD and CODE TABLES; R181). -/
def Obligations.CompletionRecordBytes : Prop :=
  ∀ (r : CompletionRecord) (phase : Bool), r.extra.length ≤ 12 → r.data.length ≤ 32 →
    r.controlHead < 65536 → r.transferHead < 65536 →
    let b := r.bytes phase
    let at' := fun i n => littleEndian ((b.drop i).take n)
    b.length = 64
    ∧ at' 0 1 = (if r.event then 2 else 1) + (if phase then 128 else 0)
    ∧ b[1]? = some r.kind ∧ at' 2 2 = r.tag.toNat
    ∧ at' 4 1 = (match r.status with
      | .ok => 0 | .rejected _ => 1 | .station _ => 2 | .link _ => 3 | .ended _ => 4)
    ∧ at' 5 1 = (match r.status with
      | .ok => 0
      | .rejected .unknownKind => 1 | .rejected .wrongRing => 2 | .rejected .badStation => 3
      | .rejected .badLength => 4 | .rejected .badParameter => 5 | .rejected .badState => 6
      | .rejected .notConfigured => 7 | .rejected .inUse => 8 | .rejected .notFound => 9
      | .rejected .tooLate => 10
      | .station .notActive => 1 | .station .lost => 2 | .station .removed => 3 | .station .busy => 4
      | .station .refused => 5 | .station .mismatch => 6 | .station .inputsNotValid => 7
      | .station .outputsHeld => 8
      | .link .timeout => 1 | .link .crcError => 2 | .link .malformed => 3 | .link .toggleError => 4
      | .link .misaddressed => 5
      | .ended .aborted => 1 | .ended .superseded => 2 | .ended .cyclesStopped => 3
      | .ended .sessionClosed => 4)
    ∧ b[6]? = some r.station
    ∧ at' 7 1 = r.data.length
    ∧ at' 8 2 = r.index % 1024 + (if r.fromTransfer then 32768 else 0)
    ∧ at' 10 2 = r.controlHead ∧ at' 12 2 = r.transferHead ∧ at' 14 2 = r.count.toNat
    ∧ at' 16 4 = r.cycle.toNat
    ∧ (b.drop 20).take 12 = r.extra ++ List.replicate (12 - r.extra.length) 0
    ∧ b.drop 32 = r.data ++ List.replicate (32 - r.data.length) 0

/-- R173, R180: the oldest staged record is written into the entry at the completion tail, 64 bytes for each
entry, once the port is free and the ring is not full; a full ring makes the post wait. The 32-bit address
is the model's choice (log entry 20), and so is POST_START as a command of its own (log entry 22). -/
def Obligations.PostStartsAtCompletionTail : Prop :=
  ∀ (s : State) (a : RingAttachment), s.hqi.attachment = some a →
    (∀ r rest, s.sc.engine.serving = true → s.hqi.post = none → s.hqi.fetch = none →
      s.hqi.staging = r :: rest →
      (s.hqi.completionTail + 1) % a.completion.count ≠ s.hqi.completionHead →
      exec .postStart s = .next { s with hqi := { s.hqi with post := some {
        address := a.completion.base + BitVec.ofNat 32 (64 * s.hqi.completionTail)
        bytes := r.record.bytes s.hqi.phase } } })
    ∧ (s.sc.engine.serving = false ∨ s.hqi.post ≠ none ∨ s.hqi.fetch ≠ none ∨ s.hqi.staging = []
        ∨ (s.hqi.completionTail + 1) % a.completion.count = s.hqi.completionHead →
      exec .postStart s = .next s)

/-- R180, R181, R185, R49, R86, R96, R137: the post of the oldest staged record ends: the tail advances, the
phase flips at a wrap, the place is free, the age timer starts if the ring held no unread record, and the
owner of an event record clears its in-staging mark and goes pending again if more has happened since. -/
def Obligations.PostEndAdvancesAndTellsOwner : Prop :=
  ∀ (s : State) (a : RingAttachment) (r : StagedRecord) (rest : List StagedRecord),
    s.hqi.attachment = some a → s.sc.engine.serving = true → s.hqi.post ≠ none →
    s.hqi.staging = r :: rest →
    let tail := (s.hqi.completionTail + 1) % a.completion.count
    let empty := s.hqi.unread = 0
    let posted := { s with hqi := { s.hqi with
      post := none
      staging := rest
      completionTail := tail
      phase := if tail = 0 then !s.hqi.phase else s.hqi.phase
      ageTimer := if empty then (if s.hqi.delay = 0 then none else some s.hqi.delay) else s.hqi.ageTimer
      delayReached := if empty then decide (s.hqi.delay = 0) else s.hqi.delayReached } }
    (r.owner = .request → exec .postEnd s = .next posted)
    ∧ (r.owner = .safe → exec .postEnd s = .next { posted with hm := { s.hm with event := { s.hm.event with
        inStaging := false
        pending := s.hm.event.pending || decide (s.hm.event.count ≠ 0) } } })
    ∧ (r.owner = .fault → exec .postEnd s = .next { posted with fl := { s.fl with
        inStaging := false
        pending := s.fl.pending || decide (s.fl.changes ≠ 0) } })
    ∧ (∀ k, r.owner = .stationState k → exec .postEnd s = .next (State.withStation posted k
        { s.station k with report := { (s.station k).report with
          inStaging := false
          pending := (s.station k).report.pending || decide ((s.station k).report.transitions ≠ 0) } }))
    ∧ (∀ k, r.owner = .change k → exec .postEnd s = .next (State.withStation posted k
        { s.station k with change := { (s.station k).change with
          inStaging := false
          pending := (s.station k).change.pending || (s.station k).change.bits.any (· ≠ 0) } }))

/-- R184, R185: the age timer's expiry sets delay reached, which makes the interrupt condition hold; and INT
is the condition gated by INT_ENABLE. That AGE_TIMER_EXPIRY changes nothing where the timer does not stand at 0
is the model's choice (log entries 1 and 5). -/
def Obligations.AgeExpiryAssertsInterrupt : Prop :=
  (∀ s : State, s.hqi.ageTimer = some 0 → 1 ≤ s.hqi.unread →
    ∃ t, exec .ageTimerExpiry s = .next t
      ∧ t = { s with hqi := { s.hqi with ageTimer := none, delayReached := true } }
      ∧ t.intPending = true ∧ t.int = s.hqi.intEnable)
  ∧ (∀ s : State, s.hqi.ageTimer ≠ some 0 ∨ s.hqi.unread = 0 → exec .ageTimerExpiry s = .next s)
  ∧ (∀ s : State, s.int = true ↔ s.hqi.intEnable = true ∧ (s.sc.engine = .halted
      ∨ s.hqi.threshold ≤ s.hqi.unread ∨ (1 ≤ s.hqi.unread ∧ s.hqi.delayReached = true)))

/-- R158, R159, R22, R72, R89, R187: an error response to a fetch or a post halts the part with the reason of the
transaction; the line is dropped, the schedule and the hold timer stop, staging and the requests in hand are lost;
the station table, the transaction table, SAFE and its event, and the fault list stay as they stood. What else HALTED keeps
is read as log entry 14 says, and that in OFF the error ends the descriptor read as log entry 15 says. That an error
with no transaction in flight changes nothing is the model's choice (log entry 1). -/
def Obligations.MasterPortErrorHalts : Prop :=
  (∀ s : State, s.sc.engine = .off → exec .masterPortError s = exec (.descriptorReadEnd .error) s)
  ∧ ∀ s : State, s.sc.engine.serving = true →
    (s.hqi.fetch = none → s.hqi.post = none → exec .masterPortError s = .next s)
    ∧ (s.hqi.fetch ≠ none ∨ s.hqi.post ≠ none → ∃ t, exec .masterPortError s = .next t
      ∧ t = { s with
        sc := { s.sc with
          engine := .halted
          haltReason := if s.hqi.fetch = none then .postError else .fetchError
          request := none }
        hqi := { s.hqi with
          fetch := none
          post := none
          staging := []
          heldCopy := none
          taken := none
          nonSlot := none
          readyList := []
          ageTimer := none }
        lc := { s.lc with
          state := .off
          responseTimer := none
          gapTimer := none
          quietTimer := none
          tx := []
          rx := []
          corrupt := false
          exchange := none
          held := none
          run := false }
        cs := { s.cs with phase := .stopped, cycleTimer := none, emptyGapTimer := none, inHand := none }
        hm := { s.hm with timer := none } }
      ∧ t.int = s.hqi.intEnable ∧ t.lc.driverEnable = false)

/-! ## Control requests -/

/-- R147: outside the states its row of the gate names, a control request that has passed the common checks
completes REJECTED/BAD_STATE and does nothing else. -/
def Obligations.ControlRequestsGatedByEngine : Prop :=
  ∀ (s : State) (q : ControlRequest),
    ∀ row ∈ ([(.openSession, .openSession, [.idle]), (.startCycles, .startCycles, [.config]),
        (.stopCycles, .stopCycles, [.run]), (.closeSession, .closeSession, [.config, .run]),
        (.configureStation, .configureStation, [.config, .run]),
        (.removeStation, .removeStation, [.config, .run]), (.readStation, .readStation, [.config, .run]),
        (.readStats, .readStats, [.config, .run]), (.abort, .abort, [.config, .run]),
        (.ackFault, .ackFault, [.idle, .config, .run]), (.readFaults, .readFaults, [.idle, .config, .run]),
        (.resume, .resume, [.idle, .config, .run])] : List (RequestKind × Instr × List EngineState)),
      s.Applies row.1 q → s.sc.engine ∉ row.2.2 →
        exec row.2.1 s = .next (s.controlAnswered q (.rejected .badState) [] [])

/-- R148, R149, R190: OPEN_SESSION is refused with the number of the first parameter out of range; with all
in range the session opens with them, every station UNUSED, the fault list, counters and statistics clear
and the engine in CONFIG. -/
def Obligations.OpenSessionJudgesParameters : Prop :=
  ∀ (s : State) (q : ControlRequest), s.Applies .openSession q → s.sc.engine = .idle →
    let p := fieldAt q.record
    let good : List Prop :=
      [p 8 1 ≤ 4, 20 ≤ p 10 2 ∧ p 10 2 ≤ 5000, 2 ≤ p 9 1 ∧ p 9 1 ≤ 16,
        p 12 4 = 0 ∨ (200 ≤ p 12 4 ∧ p 12 4 ≤ 100000), 1 ≤ p 16 1 ∧ p 16 1 ≤ 8, 1 ≤ p 17 1 ∧ p 17 1 ≤ 8,
        p 18 1 ≤ 15, 100 ≤ p 20 2 ∧ p 20 2 ≤ 25500, p 22 2 = 0 ∨ (10 ≤ p 22 2 ∧ p 22 2 ≤ 60000),
        p 19 1 < 4, 1 ≤ p 24 1 ∧ p 24 1 ≤ 64, p 26 2 ≤ 10000]
    (∀ (before : List Prop) (bad : Prop) (rest : List Prop), good = before ++ bad :: rest →
      (∀ g ∈ before, g) → ¬ bad →
      exec .openSession s = .next (s.controlAnswered q (.rejected .badParameter)
        [BitVec.ofNat 8 (before.length + 1)] []))
    ∧ ((∀ g ∈ good, g) → ∀ rate, [.k500, .m1, .m2, .m4, .m8][p 8 1]? = some rate →
      exec .openSession s = .next (State.controlAnswered { s with
        lc := { s.lc with
          state := .idle
          params := some { rate := rate, responseTimeout := p 10 2, gap := p 9 1 }
          perCycle := 0
          unexpected := 0
          run := false }
        cs := { s.cs with
          mode := if p 12 4 = 0 then .freeRun else .fixed
          period := p 12 4
          budget := p 16 1
          syncOption := decide (p 19 1 % 2 = 1)
          cycle := 0
          lastBusy := none
          minBusy := none
          maxBusy := none
          overrunCount := 0 }
        st := {
          stateEvents := decide (2 ≤ p 19 1)
          entries := s.st.entries.map fun e => { Station.reset with
            change := { pending := false, inStaging := e.change.inStaging, bits := [], coalesce := 0 }
            report := { pending := false, inStaging := e.report.inStaging, transitions := 0 }
            results := e.results } }
        tt := { s.tt with
          attemptLimit := p 17 1
          waitLimit := p 18 1
          defaultBackoff := p 20 2 }
        hm := { s.hm with holdTime := p 22 2, safe := false, timer := none }
        fl := { s.fl with entries := [], overflow := 0, pending := false, changes := 0, carried := .none }
        hqi := { s.hqi with threshold := p 24 1, delay := p 26 2 }
        sc := { s.sc with teardown := .none, engine := .config } } q .ok [] []))

/-- R150, R53, R54, R21, R58: START_CYCLES takes the engine to RUN and starts cycle 0 at once; with no
station in service its first exchange is the probe of the lowest PROBING address, sent at once in IDLE and held
for the end of a gap that still runs. -/
def Obligations.StartCyclesBeginsCycleZero : Prop :=
  ∀ (s : State) (q : ControlRequest), s.Applies .startCycles q → s.sc.engine = .config →
    ∃ t, exec .startCycles s = .next t
      ∧ t.sc = { s.sc with
          engine := .run
          request := some { q with stage := .ready (answerTo q.record .control q.index .ok [] []) } }
      ∧ t.cs.cycle = 0 ∧ t.cs.startTime = s.now ∧ t.cs.runLength = 0 ∧ t.cs.overrun = false
      ∧ (s.cs.mode = .fixed → t.cs.due = some (s.now + s.cs.period) ∧ t.cs.cycleTimer = some s.cs.period)
      ∧ (s.cs.mode = .freeRun → t.cs.due = none ∧ t.cs.cycleTimer = some 100)
      ∧ t.hm = { s.hm with timer := if s.hm.holdTime = 0 then none else some (s.hm.holdTime * 1000) }
      ∧ t.fl = (if s.lc.perCycle = 0 then s.fl.endCause .lineFault 0 else s.fl) ∧ t.lc.perCycle = 0
      ∧ t.hqi = s.hqi ∧ t.now = s.now ∧ t.bus = s.bus ∧ t.pending = s.pending
      ∧ ((∀ k, (s.station k).inService = false ∧ (s.station k).removePending = false
            ∧ (s.station k).state ∈ [.unused, .probing]) →
        ∀ k, IsFirst (fun j => (s.station j).state = .probing) k →
          let ident : SendRequest :=
            { address := k.val + 1, kind := .ident, toggle := false, payload := [], dataLength := some 5 }
          t.st = s.st ∧ t.tt = s.tt ∧ t.cs.phase = .probe ∧ t.cs.inHand = some (.probe k)
          ∧ t.cs.probePointer = k.val + 1 ∧ t.cs.pollsSent = false
          ∧ (s.lc.state = .idle → t.lc.state = .sending ∧ t.lc.tx = ident.frame)
          ∧ (s.lc.state = .gap → t.lc = { s.lc with perCycle := 0, held := some ident }))

/-- R151, R154, R71, R95: a stop or a close taken while an exchange is in hand sets the teardown and the
code for the attempt in hand, stops the hold timer and the cycle timers, and waits; a close enters
CLOSING. -/
def Obligations.StopAndCloseWaitForLine : Prop :=
  ∀ (s : State) (q : ControlRequest), s.cs.inHand ≠ none →
    (s.Applies .stopCycles q → s.sc.engine = .run → exec .stopCycles s = .next (State.controlWaiting { s with
      sc := { s.sc with teardown := .stop }
      tt := { s.tt with ending := some .cyclesStopped }
      hm := { s.hm with timer := none }
      cs := { s.cs with cycleTimer := none, emptyGapTimer := none } } q))
    ∧ (s.Applies .closeSession q → s.sc.engine ∈ [.config, .run] →
      exec .closeSession s = .next (State.controlWaiting { s with
        sc := { s.sc with teardown := .close, engine := .closing }
        tt := { s.tt with ending := some .sessionClosed }
        hm := { s.hm with timer := none }
        cs := { s.cs with cycleTimer := none, emptyGapTimer := none } } q))

/-- R153, R41, R69, R71, R95, R117: a stop is applied, at once where no exchange is in hand and otherwise once
the line is clear (the second as a step of its own is the model's choice, log entry 3). -/
def Obligations.StopAppliedResetsTheCycle : Prop :=
  ∀ (s : State) (q : ControlRequest) (c : Instr), s.SlotsSound →
    (c = .stopCycles ∧ s.Applies .stopCycles q ∧ s.sc.engine = .run ∧ s.cs.inHand = none)
      ∨ (c = .stopApplied ∧ s.sc.request = some q ∧ q.stage = .waiting true ∧ s.sc.teardown = .stop) →
    ∃ t, exec c s = .next t
      ∧ t.sc = { s.sc with
          engine := .config
          teardown := .none
          request := some { q with stage := .ready (answerTo q.record .control q.index .ok [] []) } }
      ∧ t.cs = { s.cs with
          phase := .stopped
          due := none
          cycleTimer := none
          emptyGapTimer := none
          pollList := []
          pollsSent := false
          runLength := 0
          overrun := false }
      ∧ t.hm = { s.hm with safe := false, timer := if c = .stopCycles then none else s.hm.timer }
      ∧ t.lc = s.lc
      ∧ t.fl = s.fl.endCauses
          ((allStations.filter fun k => (s.station k).state ≠ .unused).flatMap stationCauses
            ++ [(.holdExpired, 0)])
      ∧ TransactionTable.EndsWaiting { s.tt with ending := none } t.tt allStations (.ended .cyclesStopped)
      ∧ t.st.stateEvents = s.st.stateEvents
      ∧ (∀ k, t.station k = if (s.station k).state = .unused then s.station k else
          { (s.station k).confirmEnded (.ended .cyclesStopped) with
            state := .probing
            report := (s.station k).reportAfter s.st.stateEvents .probing
            restartTimer := none
            missCount := 0
            inputsValid := false })
      ∧ t.hqi = { s.hqi with
          readyList := s.hqi.readyList
            ++ s.confirmEntries (allStations.filter fun k => (s.station k).state ≠ .unused) }
      ∧ t.now = s.now ∧ t.bus = s.bus ∧ t.pending = s.pending

/-- R156, R8, R42, R71, R95, R117, R140: a close is applied, at once where no exchange is in hand and
otherwise once the line is clear (the second as a step of its own is the model's choice, log entry 3): the
slots and confirms end, every station returns to UNUSED, and the engine is IDLE. At the fault list every cause
ends, front to back: acknowledged entries go and the others stay as ENDED, each one change, the last of them
carried. -/
def Obligations.CloseAppliedVacatesStations : Prop :=
  ∀ (s : State) (q : ControlRequest) (c : Instr), s.SlotsSound →
    (c = .closeSession ∧ s.Applies .closeSession q ∧ s.sc.engine ∈ [.config, .run] ∧ s.cs.inHand = none)
      ∨ (c = .closeApplied ∧ s.sc.request = some q ∧ q.stage = .waiting true ∧ s.sc.teardown = .close) →
    ∃ t, exec c s = .next t
      ∧ t.sc = { s.sc with
          engine := .idle
          teardown := .none
          request := some { q with stage := .ready (answerTo q.record .control q.index .ok [] []) } }
      ∧ t.cs = { s.cs with
          phase := .stopped
          due := none
          cycleTimer := none
          emptyGapTimer := none
          pollList := []
          pollsSent := false
          runLength := 0
          overrun := false }
      ∧ t.hm = { s.hm with safe := false, timer := if c = .closeSession then none else s.hm.timer }
      ∧ t.lc = { s.lc with
          state := .off
          params := none
          responseTimer := none
          gapTimer := none
          quietTimer := none
          tx := []
          rx := []
          corrupt := false
          exchange := none
          held := none
          run := false }
      ∧ t.lc.driverEnable = false
      ∧ (let f := s.fl.endCause .holdExpired 0
        let stays := fun e : FaultEntry => e.ended || !e.acknowledged
        t.fl.entries = (f.entries.filter stays).map (fun e => { e with ended := true })
        ∧ t.fl.overflow = f.overflow ∧ t.fl.inStaging = f.inStaging
        ∧ t.fl.changes.toNat = min (f.changes.toNat + (f.entries.filter (fun e => !e.ended)).length) 65535
        ∧ t.fl.pending = (f.pending || (f.entries.any (fun e => !e.ended) && !f.inStaging))
        ∧ ((∀ e ∈ f.entries, e.ended = true) → t.fl.carried = f.carried)
        ∧ ∀ before e after, f.entries = before ++ e :: after → (∀ x ∈ after, x.ended = true) →
          e.ended = false →
          (e.acknowledged = false → t.fl.carried = .entry e.kind e.station)
          ∧ (e.acknowledged = true →
            t.fl.carried = .removed { e with ended := true } (before.filter stays).length))
      ∧ TransactionTable.EndsWaiting { s.tt with ending := none } t.tt allStations (.ended .sessionClosed)
      ∧ t.st.stateEvents = s.st.stateEvents
      ∧ (∀ k, t.station k = if (s.station k).state = .unused then s.station k else
          { (s.station k).confirmEnded (.ended .sessionClosed) with
            state := .unused
            restartTimer := none
            change := { (s.station k).change with
              pending := false
              bits := List.replicate (s.station k).inputSize 0
              coalesce := 0 }
            report := { (s.station k).report with pending := false, transitions := 0 }
            inputsValid := false
            missCount := 0
            removePending := false })
      ∧ t.hqi = { s.hqi with
          threshold := 1
          delay := 0
          readyList := s.hqi.readyList
            ++ s.confirmEntries (allStations.filter fun k => (s.station k).state ≠ .unused) }
      ∧ t.now = s.now ∧ t.bus = s.bus ∧ t.pending = s.pending

/-- R25, R26, R48: CONFIGURE_STATION is refused outside CONFIG and RUN, for a configured station, a parameter
out of range or a safe image of another length, in that order; accepted, it sets up the entry in PROBING and
nothing else. -/
def Obligations.ConfigureStationJudged : Prop :=
  ∀ (s : State) (q : ControlRequest) (k : StationId), s.Applies .configureStation q →
    q.record[4].toNat = k.val + 1 →
    let open' := s.sc.engine ∈ [EngineState.config, .run]
    let p := fieldAt q.record
    let good := p 10 1 ≤ 16 ∧ p 11 1 ≤ 16 ∧ p 12 1 ∈ [1, 2, 4, 8] ∧ (1 ≤ p 13 1 ∧ p 13 1 ≤ 15) ∧ 1 ≤ p 14 1
    let e := s.station k
    let safe := (q.record.toList.drop 32).take (p 5 1)
    (¬ open' → exec .configureStation s = .next (s.controlAnswered q (.rejected .badState) [] []))
    ∧ (open' → e.state ≠ .unused →
      exec .configureStation s = .next (s.controlAnswered q (.rejected .inUse) [] []))
    ∧ (open' → e.state = .unused → ¬ good →
      exec .configureStation s = .next (s.controlAnswered q (.rejected .badParameter) [] []))
    ∧ (open' → e.state = .unused → good → p 5 1 ≠ p 11 1 →
      exec .configureStation s = .next (s.controlAnswered q (.rejected .badLength) [] []))
    ∧ (open' → e.state = .unused → good → p 5 1 = p 11 1 →
      exec .configureStation s = .next (State.controlAnswered (s.withStation k { e with
        state := .probing
        report := e.reportAfter s.st.stateEvents .probing
        expectedType := BitVec.ofNat 16 (p 8 2)
        inputSize := p 10 1
        outputSize := p 11 1
        divisor := p 12 1
        missLimit := p 13 1
        restartDelay := p 14 1
        safeImage := safe
        outputImage := safe
        inputImage := List.replicate (p 10 1) 0
        lastReported := List.replicate (p 10 1) 0
        watchMask := List.replicate (p 10 1) 0xFF
        inputsValid := false
        learned := none
        missCount := 0
        restartTimer := none
        statusCode := 0
        counters := .zero
        toggle := false
        resync := false
        removePending := false
        change := { e.change with pending := false, bits := List.replicate (p 10 1) 0, coalesce := 0 }
        confirm := none }) q .ok [] []))

/-- R23, R43 to R45, R73: REMOVE_STATION is refused for a station that is not configured, waits while an exchange is in
hand with the station marked, and is applied otherwise, at once or once the exchange has been applied (the
second as a step of its own is the model's choice, log entry 3): slots and confirm end STATION/REMOVED, the
causes end, the entry is UNUSED, its sizes 0 and its images, watch mask and accumulated bits empty. That this
last comes with the removal itself is read as log entry 27 says. -/
def Obligations.RemovalWaitsOrApplies : Prop :=
  ∀ (s : State) (q : ControlRequest) (k : StationId), q.record[4].toNat = k.val + 1 →
    (s.Applies .removeStation q → s.sc.engine ∈ [.config, .run] →
      ((s.station k).state = .unused →
        exec .removeStation s = .next (s.controlAnswered q (.rejected .notConfigured) [] []))
      ∧ ((s.station k).state ≠ .unused → s.cs.inHand ≠ none →
        exec .removeStation s = .next (State.controlWaiting
          (s.withStation k { s.station k with removePending := true }) q)))
    ∧ (∀ c, s.SlotsSound →
      (c = .removeStation ∧ s.Applies .removeStation q ∧ s.sc.engine ∈ [.config, .run]
          ∧ (s.station k).state ≠ .unused ∧ s.cs.inHand = none)
        ∨ (c = .removalApplied ∧ s.sc.request = some q ∧ q.stage = .waiting true
          ∧ q.record.commonCheck .control = none ∧ q.record.kind = some .removeStation) →
      ∃ t, exec c s = .next t
        ∧ t = { s with
            sc := { s.sc with request := some { q with
              stage := .ready (answerTo q.record .control q.index .ok [] []) } }
            st := t.st
            tt := t.tt
            fl := s.fl.endCauses (stationCauses k)
            hqi := { s.hqi with readyList := s.hqi.readyList ++ s.confirmEntries [k] } }
        ∧ TransactionTable.EndsWaiting s.tt t.tt [k] (.station .removed)
        ∧ t.st = (s.withStation k { (s.station k).confirmEnded (.station .removed) with
            state := .unused
            inputSize := 0
            outputSize := 0
            outputImage := []
            safeImage := []
            inputImage := []
            lastReported := []
            watchMask := []
            restartTimer := none
            change := { (s.station k).change with pending := false, bits := [], coalesce := 0 }
            report := { (s.station k).report with pending := false, transitions := 0 }
            inputsValid := false
            missCount := 0
            removePending := false }).st)

/-- R47: READ_STATION is refused outside CONFIG and RUN and for an UNUSED station; for a configured one its data
is 25 bytes, with the counters cleared after the read where the request says so. -/
def Obligations.ReadStationReports : Prop :=
  ∀ (s : State) (q : ControlRequest) (k : StationId), s.Applies .readStation q →
    q.record[4].toNat = k.val + 1 →
    let open' := s.sc.engine ∈ [EngineState.config, .run]
    let e := s.station k
    (¬ open' → exec .readStation s = .next (s.controlAnswered q (.rejected .badState) [] []))
    ∧ (open' → e.state = .unused →
      exec .readStation s = .next (s.controlAnswered q (.rejected .notConfigured) [] []))
    ∧ (open' → e.state ≠ .unused → e.missCount < 256 → ∃ data : List Byte,
      exec .readStation s = .next (State.controlAnswered
        (if q.record[1].getLsbD 1 then s.withStation k { e with counters := .zero } else s) q .ok [] data)
      ∧ data.length = 25
      ∧ (let at' := fun i n => littleEndian ((data.drop i).take n)
        at' 0 1 = (match e.state with
          | .unused => 0 | .probing => 1 | .active => 2 | .degraded => 3 | .lost => 4
          | .mismatch => 5 | .restarting => 6)
        ∧ at' 1 1 = e.missCount
        ∧ at' 2 2 = (e.learned.elim 0 (·.type.toNat)) ∧ at' 4 1 = (e.learned.elim 0 (·.inputSize.toNat))
        ∧ at' 5 1 = (e.learned.elim 0 (·.outputSize.toNat))
        ∧ at' 6 1 = (e.learned.elim 0 (·.firmware.toNat))
        ∧ at' 7 1 = e.inputsValid.toNat + 2 * e.toggle.toNat + 4 * e.resync.toNat
            + 8 * e.confirm.isSome.toNat + 16 * e.change.pending.toNat + 32 * e.learned.isSome.toNat
        ∧ at' 8 4 = e.counters.pollsSent.toNat ∧ at' 12 4 = e.counters.goodReplies.toNat
        ∧ at' 16 2 = e.counters.timeouts.toNat ∧ at' 18 2 = e.counters.crcErrors.toNat
        ∧ at' 20 2 = e.counters.waits.toNat ∧ at' 22 2 = e.counters.refuses.toNat
        ∧ at' 24 1 = e.statusCode.toNat))

/-- R70: READ_STATS is refused outside CONFIG and RUN, and otherwise returns 28 bytes; CLEAR clears the busy times, the overrun count and the unexpected-traffic
count after the read and leaves the cycle number. -/
def Obligations.ReadStatsReports : Prop :=
  ∀ (s : State) (q : ControlRequest), s.Applies .readStats q →
    let open' := s.sc.engine ∈ [EngineState.config, .run]
    (¬ open' → exec .readStats s = .next (s.controlAnswered q (.rejected .badState) [] []))
    ∧ (open' → s.fl.entries.length < 256 → ∃ data : List Byte,
      exec .readStats s = .next (State.controlAnswered
        (if q.record[1].getLsbD 1 then { s with
          cs := { s.cs with lastBusy := none, minBusy := none, maxBusy := none, overrunCount := 0 }
          lc := { s.lc with unexpected := 0 } } else s) q .ok [] data)
      ∧ data.length = 28
      ∧ (let at' := fun i n => littleEndian ((data.drop i).take n)
        at' 0 4 = s.cs.cycle.toNat ∧ at' 4 4 = s.cs.lastBusy.elim 0 BitVec.toNat
        ∧ at' 8 4 = s.cs.minBusy.elim 0 BitVec.toNat ∧ at' 12 4 = s.cs.maxBusy.elim 0 BitVec.toNat
        ∧ at' 16 4 = s.cs.overrunCount.toNat
        ∧ at' 20 1 = ((List.finRange 12).filter fun i => (s.slot i).state = .free).length
        ∧ at' 21 1 = s.fl.entries.length ∧ at' 22 2 = s.fl.overflow.toNat
        ∧ at' 24 4 = s.lc.unexpected.toNat))

/-- R118 to R120, R115: ABORT finds the oldest unfinished slot with the tag: an ON_LINK one is marked and the
request waits; a QUEUED or BACKOFF one ends at once, and a slot behind it may have become eligible. -/
def Obligations.AbortFindsOldestTarget : Prop :=
  ∀ (s : State) (q : ControlRequest), s.Applies .abort q → s.sc.engine ∈ [.config, .run] →
    let target := fun i => (s.slot i).tag = q.record[7] ++ q.record[6] ∧ (s.slot i).state.unfinished = true
    ((∀ i ∈ s.tt.age, ¬ target i) →
      exec .abort s = .next (s.controlAnswered q (.rejected .notFound) [] []))
    ∧ (∀ before i after, s.tt.age = before ++ i :: after → (∀ j ∈ before, ¬ target j) → target i →
      ((s.slot i).state = .onLink → exec .abort s = .next (State.controlWaiting
        (s.withSlot i { s.slot i with abortPending := true }) q))
      ∧ (∀ k, (s.slot i).waiting = true → (s.slot i).station = some k →
        exec .abort s = .next (State.reportEligible (State.controlAnswered { s with
          tt := { s.tt with
            slots := s.tt.slots.set i ((s.slot i).doneWith (.ended .aborted) (s.slot i).data 0)
            fifos := s.tt.fifos.set k ((s.fifo k).filter (· ≠ i))
            doneQueue := s.tt.doneQueue ++ [i] }
          st := { s.st with entries := s.st.entries.set k { s.station k with
            resync := (s.station k).resync
              || ((s.slot i).doubtful && decide ((s.slot i).kind ∈ [some .write, some .restart])) } } }
          q .ok (halfBytes (BitVec.ofNat 16 ((s.slot i).index % 1024))) []))))

/-- R129 to R131, R135: ACK_FAULT names a pair of the list or ALL; each entry that changes is one change, and the
last of them is carried. The counts it answers with are read as log entry 11 says, and that a removed entry is
carried as acknowledged as log entry 12 says. -/
def Obligations.AckFaultOneOrAll : Prop :=
  ∀ (s : State) (q : ControlRequest), s.Applies .ackFault q → s.sc.engine ∈ [.idle, .config, .run] →
    let kind := q.record[8].toNat
    let station := q.record[9].toNat
    let names := fun e : FaultEntry => e.kind.code.toNat = kind ∧ e.station = station
    let answered := fun f a r => Host.Outcome.next (State.controlAnswered { s with fl := f } q .ok
      [BitVec.ofNat 8 a, BitVec.ofNat 8 r] [])
    let pair := (kind ∈ [1, 2, 3] ∧ 1 ≤ station ∧ station ≤ 31) ∨ (kind ∈ [4, 5, 6] ∧ station = 0)
    (kind ≠ 0xFF → ¬ pair →
      exec .ackFault s = .next (s.controlAnswered q (.rejected .badParameter) [] []))
    ∧ (pair → (∀ e ∈ s.fl.entries, ¬ names e) →
      exec .ackFault s = .next (s.controlAnswered q (.rejected .notFound) [] []))
    ∧ (pair → ∀ before e after, s.fl.entries = before ++ e :: after → (∀ b ∈ before, ¬ names b) → names e →
      let changed := { s.fl with
        changes := satInc s.fl.changes
        pending := s.fl.pending || !s.fl.inStaging }
      (e.ended = false → e.acknowledged = false → exec .ackFault s = answered { changed with
        entries := before ++ { e with acknowledged := true } :: after
        carried := .entry e.kind e.station } 1 0)
      ∧ (e.ended = false → e.acknowledged = true → exec .ackFault s = answered s.fl 0 0)
      ∧ (e.ended = true → exec .ackFault s = answered { changed with
        entries := before ++ after
        carried := .removed { e with acknowledged := true } before.length } 1 1))
    ∧ (kind = 0xFF → ∃ f : FaultList,
      exec .ackFault s = answered f (s.fl.entries.filter fun e => !e.ended && !e.acknowledged).length
        (s.fl.entries.filter (·.ended)).length
      ∧ f.entries = (s.fl.entries.filter (fun e => !e.ended)).map (fun e => { e with acknowledged := true })
      ∧ f.overflow = s.fl.overflow ∧ f.inStaging = s.fl.inStaging
      ∧ (s.fl.entries.all (fun e => !e.ended && e.acknowledged) = true → f = s.fl)
      ∧ (s.fl.entries.all (fun e => !e.ended && e.acknowledged) = false →
        f.pending = (s.fl.pending || !s.fl.inStaging))
      ∧ f.changes.toNat
        = min (s.fl.changes.toNat + (s.fl.entries.filter fun e => e.ended || !e.acknowledged).length) 65535
      ∧ ∀ before e after, s.fl.entries = before ++ e :: after →
        (∀ x ∈ after, x.ended = false ∧ x.acknowledged = true) →
        (e.ended = false → e.acknowledged = false → f.carried = .entry e.kind e.station)
        ∧ (e.ended = true →
          f.carried = .removed { e with acknowledged := true } (before.filter fun x => !x.ended).length))

/-- R133, R134: READ_FAULTS is refused outside IDLE, CONFIG and RUN; otherwise it returns up to four compact reports from the position asked for; CLEAR clears the
overflow count after the read. -/
def Obligations.ReadFaultsReports : Prop :=
  ∀ (s : State) (q : ControlRequest), s.Applies .readFaults q →
    let open' := s.sc.engine ∈ [EngineState.idle, .config, .run]
    let from' := (q.record[7] ++ q.record[6]).toNat
    (¬ open' → exec .readFaults s = .next (s.controlAnswered q (.rejected .badState) [] []))
    ∧ (open' → 15 < from' → exec .readFaults s = .next (s.controlAnswered q (.rejected .badParameter) [] []))
    ∧ (open' → from' ≤ 15 → s.fl.Sound →
      let n := min 4 (s.fl.entries.length - from')
      ∃ data : List Byte,
        exec .readFaults s = .next (State.controlAnswered
          (if q.record[1].getLsbD 1 then { s with fl := { s.fl with overflow := 0 } } else s) q .ok
          ([BitVec.ofNat 8 s.fl.entries.length] ++ halfBytes s.fl.overflow ++ [BitVec.ofNat 8 n]) data)
        ∧ data.length = 8 * n
        ∧ ∀ i e, i < n → s.fl.entries[from' + i]? = some e →
          let b := fun j => (data.getD (8 * i + j) 0).toNat
          b 0 = e.kind.code.toNat ∧ b 1 = e.station % 256 ∧ b 2 = e.detail.toNat
          ∧ b 3 = e.ended.toNat + 2 * e.acknowledged.toNat ∧ b 4 = e.occurrences.toNat
          ∧ b 5 = from' + i ∧ b 6 + 256 * b 7 = e.lastCycle.toNat % 65536)

/-- R94: RESUME is refused while SAFE is clear, in any engine state; with SAFE set it clears SAFE, ends the cause
of HOLD_EXPIRED and loads the hold timer, which does not run with a hold time of 0 (R89, log entry 18). -/
def Obligations.ResumeLeavesSafe : Prop :=
  ∀ (s : State) (q : ControlRequest), s.Applies .resume q →
    (s.hm.safe = false → exec .resume s = .next (s.controlAnswered q (.rejected .badState) [] []))
    ∧ (s.hm.safe = true → s.sc.engine ∈ [.idle, .config, .run] →
      exec .resume s = .next (State.controlAnswered { s with
        hm := { s.hm with
          safe := false
          timer := if s.hm.holdTime = 0 then none else some (s.hm.holdTime * 1000) }
        fl := s.fl.endCause .holdExpired 0 } q .ok [] []))

/-! ## Transfer requests -/

/-- R75, R81, R82, R90, R99: the checks that turn a transfer request away, in order: the engine state, the
station configured, the station not marked for removal. The request completes at once and does nothing
else. Here and below a transfer request is applied from the model's latch (log entry 2). -/
def Obligations.TransferRequestsTurnedAway : Prop :=
  ∀ (s : State) (t : TakenRecord) (k : StationId),
    ∀ row ∈ ([(.writeOutputs, .writeOutputs, [.config, .run]), (.readInputs, .readInputs, [.config, .run]),
        (.setWatch, .setWatch, [.config, .run]), (.keepalive, .keepalive, [.config, .run]),
        (.remoteRead, .remoteRead, [.run]), (.remoteWrite, .remoteWrite, [.run]),
        (.restartStation, .restartStation, [.run])] : List (RequestKind × Instr × List EngineState)),
      s.Takes row.1 t → (row.1 ≠ .keepalive → t.record[4].toNat = k.val + 1) →
      let turned := fun status => exec row.2.1 s = .next (s.transferAnswered t status [])
      (s.sc.engine ∉ row.2.2 → turned (.rejected .badState))
      ∧ (row.1 ≠ .keepalive → s.sc.engine ∈ row.2.2 → (s.station k).state = .unused →
        turned (.rejected .notConfigured))
      ∧ (row.1 ≠ .keepalive → s.sc.engine ∈ row.2.2 → (s.station k).state ≠ .unused →
        (s.station k).removePending = true → turned (.station .notActive))

/-- R75 to R77, R80, R89: an accepted WRITE_OUTPUTS ends the pending confirm SUPERSEDED, replaces the output
image and refreshes a running hold timer; it completes OK without CONFIRM, with CONFIRM it completes
NOT_ACTIVE or OUTPUTS_HELD at once, and otherwise its completion is deferred as the station's pending
confirm. A data length that is not the output size is BAD_LENGTH. -/
def Obligations.WriteOutputsReplacesImage : Prop :=
  ∀ (s : State) (t : TakenRecord) (k : StationId), s.Takes .writeOutputs t →
    t.record[4].toNat = k.val + 1 → s.sc.engine ∈ [.config, .run] → (s.station k).state ≠ .unused →
    (s.station k).removePending = false →
    let data := (t.record.toList.drop 32).take (fieldAt t.record 5 1)
    let e := (s.station k).confirmEnded (.ended .superseded)
    let replaced := State.withStation { s with
        hm := { s.hm with timer := if s.hm.timer = none then none
          else if s.hm.holdTime = 0 then none else some (s.hm.holdTime * 1000) }
        hqi := { s.hqi with readyList := s.hqi.readyList ++ s.confirmEntries [k] } } k
      { e with outputImage := data }
    (fieldAt t.record 5 1 ≠ (s.station k).outputSize →
      exec .writeOutputs s = .next (s.transferAnswered t (.rejected .badLength) []))
    ∧ (fieldAt t.record 5 1 = (s.station k).outputSize →
      (t.record[1].getLsbD 0 = false →
        exec .writeOutputs s = .next (replaced.transferAnswered t .ok []))
      ∧ (t.record[1].getLsbD 0 = true →
        ((s.station k).inService = false ∨ s.sc.engine = .config →
          exec .writeOutputs s = .next (replaced.transferAnswered t (.station .notActive) []))
        ∧ ((s.station k).inService = true → s.sc.engine = .run → s.hm.safe = true →
          exec .writeOutputs s = .next (replaced.transferAnswered t (.station .outputsHeld) []))
        ∧ ((s.station k).inService = true → s.sc.engine = .run → s.hm.safe = false →
          exec .writeOutputs s = .next (State.withStation
            { replaced with hqi := { replaced.hqi with taken := none } } k
            { e with
              outputImage := data
              confirm := some { tag := t.record[3] ++ t.record[2], index := t.index, carried := false } }))))

/-- R81, R82: READ_INPUTS answers with the input image while inputs are valid; SET_WATCH replaces the watch
mask and rebases the change detection on the input image. -/
def Obligations.ReadInputsAndSetWatch : Prop :=
  ∀ (s : State) (t : TakenRecord) (k : StationId),
    t.record[4].toNat = k.val + 1 → s.sc.engine ∈ [.config, .run] → (s.station k).state ≠ .unused →
    (s.station k).removePending = false →
    (s.Takes .readInputs t →
      ((s.station k).inputsValid = true →
        exec .readInputs s = .next (s.transferAnswered t .ok (s.station k).inputImage))
      ∧ ((s.station k).inputsValid = false →
        exec .readInputs s = .next (s.transferAnswered t (.station .inputsNotValid) [])))
    ∧ (s.Takes .setWatch t →
      (fieldAt t.record 5 1 ≠ (s.station k).inputSize →
        exec .setWatch s = .next (s.transferAnswered t (.rejected .badLength) []))
      ∧ (fieldAt t.record 5 1 = (s.station k).inputSize →
        exec .setWatch s = .next (State.transferAnswered (s.withStation k { s.station k with
          watchMask := (t.record.toList.drop 32).take (fieldAt t.record 5 1)
          lastReported := (s.station k).inputImage }) t .ok [])))

/-- R89, R90: KEEPALIVE restarts a hold timer that runs, and does no more. -/
def Obligations.KeepaliveRefreshesHoldTimer : Prop :=
  ∀ (s : State) (t : TakenRecord), s.Takes .keepalive t → s.sc.engine ∈ [.config, .run] →
    (s.hm.timer = none → exec .keepalive s = .next (s.transferAnswered t .ok []))
    ∧ (∀ left, s.hm.timer = some left → s.hm.safe = false → 1 ≤ s.hm.holdTime → exec .keepalive s = .next
      (State.transferAnswered { s with hm := { s.hm with timer := some (s.hm.holdTime * 1000) } } t .ok []))

/-- R99, R100, R61: a remote request is refused for a station out of service (but a RESTART_STATION also takes
one in MISMATCH), a count outside 1..32 and a data length its kind does not allow; accepted, it fills the
lowest FREE slot as QUEUED at the end of the age list and of its station's FIFO, and an open window is told
of it. -/
def Obligations.RemoteRequestsAccepted : Prop :=
  ∀ (s : State) (t : TakenRecord) (k : StationId), t.record[4].toNat = k.val + 1 → s.sc.engine = .run →
    (s.station k).state ≠ .unused → (s.station k).removePending = false →
    ∀ row ∈ ([(.remoteRead, .remoteRead, .read), (.remoteWrite, .remoteWrite, .write),
        (.restartStation, .restartStation, .restart)] : List (RequestKind × Instr × RemoteKind)),
      s.Takes row.1 t →
      let kind := row.2.2
      let states : List StationState :=
        if kind = .restart then [.active, .degraded, .mismatch] else [.active, .degraded]
      let n := fieldAt t.record 8 1
      let length := fieldAt t.record 5 1
      let goodCount := kind = .read → 1 ≤ n ∧ n ≤ 32
      let goodLength := if kind = .write then 1 ≤ length ∧ length ≤ 32 else length = 0
      let turned := fun status => exec row.2.1 s = .next (s.transferAnswered t status [])
      ((s.station k).state ∉ states → turned (.station .notActive))
      ∧ ((s.station k).state ∈ states → ¬ goodCount → turned (.rejected .badParameter))
      ∧ ((s.station k).state ∈ states → goodCount → ¬ goodLength → turned (.rejected .badLength))
      ∧ ((s.station k).state ∈ states → goodCount → goodLength →
        ∀ i : SlotId, (s.slot i).state = .free → (∀ j, j < i → (s.slot j).state ≠ .free) →
        exec row.2.1 s = .next (State.reportEligible { s with
          hqi := { s.hqi with taken := none }
          tt := { s.tt with
            slots := s.tt.slots.set i {
              state := .queued
              kind := some kind
              tag := t.record[3] ++ t.record[2]
              index := t.index
              station := some k
              remoteAddress := if kind = .restart then none else some (t.record[7] ++ t.record[6])
              count := match kind with | .read => n | .write => length | .restart => 0
              data := if kind = .write then (t.record.toList.drop 32).take length else []
              attemptCount := 0
              waitCount := 0
              fitPass := 0
              form := none
              doubtful := false
              abortPending := false
              backoffTimer := none
              result := none }
            fifos := s.tt.fifos.set k (s.fifo k ++ [i])
            age := s.tt.age ++ [i] } }))

/-! ## The line -/

/-- R3, R4, R5, R16, R104: the bytes of a frame, its CRC (whose appended bytes bring the CRC register to 0), and
the request the LC is handed for a slot's next attempt. -/
def Obligations.FramesCarryRequestAndCrc : Prop :=
  (∀ q : SendRequest, q.address < 32 → q.payload.length < 256 →
    ∃ (a : Byte) (lo hi : Byte),
      q.frame = [0xA5, a, (match q.kind with
          | .poll => 1 | .ident => 2 | .paramRead => 3 | .paramWrite => 4 | .restart => 5 | .sync => 6),
        BitVec.ofNat 8 q.payload.length] ++ q.payload ++ [lo, hi]
      ∧ a.toNat = q.address + 64 * q.toggle.toNat
      ∧ crc ((q.frame.drop 1).take (3 + q.payload.length) ++ [hi, lo]) = 0)
  ∧ crc [0x31, 0x32, 0x33, 0x34, 0x35, 0x36, 0x37, 0x38, 0x39] = 0x29B1
  ∧ ∀ (s : State) (i : SlotId) (k : StationId), (s.slot i).station = some k →
    let x := s.slot i
    let remote := halfBytes (x.remoteAddress.getD 0)
    (x.kind ∈ [some .write, some .restart] → (s.station k).resync = true → s.attemptRequest i k =
      { address := k.val + 1, kind := .ident, toggle := false, payload := [], dataLength := some 5 })
    ∧ (x.kind = some .read → s.attemptRequest i k =
      { address := k.val + 1, kind := .paramRead, toggle := false
        payload := remote ++ [BitVec.ofNat 8 x.count], dataLength := some x.count })
    ∧ (x.kind = some .write → (s.station k).resync = false → s.attemptRequest i k =
      { address := k.val + 1, kind := .paramWrite, toggle := (s.station k).toggle
        payload := remote ++ x.data, dataLength := none })
    ∧ (x.kind = some .restart → (s.station k).resync = false → s.attemptRequest i k =
      { address := k.val + 1, kind := .restart, toggle := (s.station k).toggle
        payload := [], dataLength := none })

/-- R2, R9, R10, R15: a gap, like every time in byte times, is loaded as that product rounded up to the next
microsecond; the last byte of a frame ends a SYNC's exchange and otherwise opens the response window; the
end of a gap takes the held request, and with none leaves the line IDLE. A gap end that starts a cycle is
another statement's. That FRAME_SENT outside SENDING, and GAP_END with no gap timer at 0, change nothing is the
model's choice (log entries 1 and 5). -/
def Obligations.FrameSentAndGapEnd : Prop :=
  (∀ (p : LineParams) (n : Nat),
    let eighths := match p.rate with
      | .k500 => 160 | .m1 => 80 | .m2 => 40 | .m4 => 20 | .m8 => 10
    n * eighths ≤ 8 * p.rate.byteTimes n ∧ 8 * p.rate.byteTimes n < n * eighths + 8
    ∧ p.gapTime = p.rate.byteTimes p.gap)
  ∧ ∀ s : State,
    (∀ x p, s.lc.state = .sending → s.lc.exchange = some x → s.lc.params = some p →
      (x.kind ≠ .sync → exec .frameSent s = .next { s with lc := { s.lc with
        state := .awaiting
        responseTimer := some p.responseTimeout
        rx := []
        corrupt := false } })
      ∧ (x.kind = .sync → exec .frameSent s = .next (State.continueCycle { s with
        lc := { s.lc with
          state := .gap
          exchange := none
          responseTimer := none
          gapTimer := some p.gapTime }
        cs := { s.cs with inHand := none, activityEnd := some s.now }
        sc := { s.sc with
          request := s.sc.request.map fun q => { q with stage := q.stage.lineReported } } })))
    ∧ (s.lc.state ≠ .sending → exec .frameSent s = .next s)
    ∧ (s.lc.state = .gap → s.lc.gapTimer = some 0 →
      (∀ q, s.lc.held = some q → exec .gapEnd s = .next { s with lc := { s.lc with
        state := .sending
        gapTimer := none
        tx := q.frame
        exchange := some { address := q.address, kind := q.kind, toggle := q.toggle
                           dataLength := q.dataLength }
        held := none
        run := false
        quietTimer := none } })
      ∧ (s.lc.held = none → s.startsAtIdle = false → exec .gapEnd s = .next { s with lc := { s.lc with
        state := .idle
        gapTimer := none } }))
    ∧ (s.lc.state ≠ .gap ∨ s.lc.gapTimer ≠ some 0 → exec .gapEnd s = .next s)

/-- R1, R7, R11, R12, R19, R20: what a character does by the LC's state: nothing with the receiver disabled,
line parameters held or not; in AWAITING the delimiter begins the reply and anything else is discarded; in RECEIVING it joins the reply and
restarts the inter-byte limit; in IDLE and GAP it is unexpected traffic, counted once a run. That the rows
for a character act alike is the model's choice (log entry 1). -/
def Obligations.CharactersByLineState : Prop :=
  ∀ (s : State) (c : Character),
    let delimiter := c.data = 0xA5 ∧ c.framingError = false
    (s.lc.quietTimer = some 0 →
      exec .runQuietEnd s = .next { s with lc := { s.lc with quietTimer := none, run := false } })
    ∧ ∀ row ∈ [.replyCharacter c, .unexpectedCharacter c, .characterDiscardedInAwaiting c]
        ++ (if c = { data := 0xA5, framingError := false } then [Instr.replyDelimiter] else []),
      (s.lc.state ∈ [.off, .sending] → exec row s = .next s)
      ∧ (s.lc.state = .awaiting → ¬ delimiter → exec row s = .next s)
      ∧ ∀ p, s.lc.params = some p →
        let two := match p.rate with | .k500 => 40 | .m1 => 20 | .m2 => 10 | .m4 => 5 | .m8 => 3
        (s.lc.state = .awaiting → delimiter → exec row s = .next { s with lc := { s.lc with
          state := .receiving
          responseTimer := some two
          rx := [0xA5]
          corrupt := false } })
        ∧ (s.lc.state = .receiving → s.outcomeAt (.character c) = none →
          exec row s = .next { s with lc := { s.lc with
            rx := replyWith s.lc.rx c
            corrupt := s.lc.corrupt || c.framingError
            responseTimer := some two } })
        ∧ (s.lc.state ∈ [.idle, .gap] → s.lc.run = true →
          exec row s = .next { s with lc := { s.lc with quietTimer := some two } })
        ∧ (s.lc.state ∈ [.idle, .gap] → s.lc.run = false →
          exec row s = .next { s with
            lc := { s.trafficCounted.lc with run := true, quietTimer := some two }
            fl := s.trafficCounted.fl })

/-- R6, R13, R188: the checks of a reply that has ended by its length, in order: its CRC and framing, its
address, its kind, length and reserved values, and the toggle of a DONE; a reply that passes is GOOD. -/
def Obligations.ReplyAcceptanceChecks : Prop :=
  ∀ (x : ExchangeRecord) (a k c0 c1 : Byte) (payload : List Byte) (corrupt : Bool), payload.length ≤ 34 →
    let n : Byte := BitVec.ofNat 8 payload.length
    let outcome := acceptReply x ([0xA5, a, k, n] ++ payload ++ [c0, c1]) corrupt
    let intact := corrupt = false ∧ crc ([a, k, n] ++ payload) = c1 ++ c0
    let addressed := a.toNat % 32 = x.address ∧ a.getLsbD 5 = true
    let answers :=
      (k = 0x81 ∧ x.kind ∈ [.poll, .ident, .paramRead] ∧ x.dataLength = some payload.length)
        ∨ (k = 0x82 ∧ x.kind ∈ [.paramWrite, .restart] ∧ payload = [])
        ∨ (k ∈ [0x83#8, 0x84] ∧ x.kind ∈ [.paramRead, .paramWrite, .restart] ∧ payload.length = 1)
    let reserved := a.getLsbD 7 = false
      ∧ (k = 0x81 → x.kind = .poll → (payload.headD 0).toNat < 16) ∧ (k = 0x84 → payload.headD 0 ≠ 0)
    let toggled := k = 0x82 → a.getLsbD 6 = x.toggle
    (¬ intact → outcome = .failed .crcError)
    ∧ (intact → ¬ addressed → outcome = .failed .misaddressed)
    ∧ (intact → addressed → ¬ (answers ∧ reserved) → outcome = .failed .malformed)
    ∧ (intact → addressed → answers → reserved → ¬ toggled → outcome = .failed .toggleError)
    ∧ (intact → addressed → answers → reserved → toggled → outcome = .good
      (if k = 0x81 then .data payload else if k = 0x82 then .done
        else if k = 0x83 then .wait (payload.headD 0) else .refuse (payload.headD 0)))

/-! ## What an exchange does at its owner -/

/-- R32, R33, R46, R78, R80, R83: a GOOD POLL reply of a station in service: ACTIVE, the miss count 0, the status
code judged, the inputs taken with the watched changes accumulated, and a pending confirm that the POLL
carried completed. The reading of CONFIRM_COMPLETE is the model's choice (log entry 16). -/
def Obligations.GoodPollTakesInputs : Prop :=
  ∀ (s : State) (event : OutcomeEvent) (k : StationId) (payload : List Byte),
    s.outcomeAt event = some (.good (.data payload)) → s.cs.inHand = some (.poll k) →
    (s.station k).inService = true →
    let e := s.station k
    let code := (payload.headD 0).extractLsb' 0 4
    let changed := andBytes (xorBytes payload.tail e.inputImage) e.watchMask
    let carried := (e.confirm.elim false (·.carried))
    let confirmed := if carried then e.confirmEnded .ok else e
    let past := s.exchangeOver event
    let result := Host.Outcome.next (State.continueCycle (State.withStation { past with
      fl := if code ≠ 0 ∧ code ≠ e.statusCode then
          s.fl.raise .stationError (k.val + 1) (code.zeroExtend 8) s.cs.cycle
        else if code = 0 ∧ e.statusCode ≠ 0 then s.fl.endCause .stationError (k.val + 1) else s.fl
      hqi := if carried then { s.hqi with readyList := s.hqi.readyList ++ [.confirm k] } else s.hqi } k
      { confirmed with
        state := .active
        report := e.reportAfter s.st.stateEvents .active
        missCount := 0
        statusCode := code
        counters := { e.counters with
          pollsSent := e.counters.pollsSent + 1
          goodReplies := e.counters.goodReplies + 1 }
        inputImage := payload.tail
        inputsValid := true
        lastReported := if e.inputsValid then e.lastReported else payload.tail
        change := if e.inputsValid = false ∨ (∀ b ∈ changed, b = 0) then e.change
          else if ∀ b ∈ e.change.bits, b = 0 then
            { e.change with
              bits := orBytes e.change.bits changed
              pending := e.change.pending || !e.change.inStaging }
          else
            { e.change with
              bits := orBytes e.change.bits changed
              coalesce := satInc e.change.coalesce } }))
    exec (rowOf event) s = result
    ∧ ∀ c, event = .character c → carried = true → exec (.confirmComplete c) s = result

/-- R34 to R36, R46, R113, R80: a failed POLL is a miss: below the miss limit the station is DEGRADED, at the
limit it is LOST, with its waiting slots and its confirm ended STATION/LOST. A report for a station out of
service only counts. Where a MISADDRESSED outcome is counted is the model's choice (log entry 10). -/
def Obligations.FailedPollCountsMiss : Prop :=
  ∀ (s : State) (event : OutcomeEvent) (k : StationId) (o : LineOutcome),
    s.outcomeAt event = some o → s.cs.inHand = some (.poll k) →
    let e := s.station k
    let counters := e.counters.count true o
    let past := s.exchangeOver event
    ((s.station k).inService = false → exec (rowOf event) s = .next (State.continueCycle (State.afterOutcome o
      (if e.state = .unused then past else past.withStation k { e with counters := counters }))))
    ∧ ∀ d, (s.station k).inService = true → o = .failed d →
      counters = { e.counters with
        pollsSent := e.counters.pollsSent + 1
        timeouts := if d = .timeout then satInc e.counters.timeouts else e.counters.timeouts
        crcErrors := if d = .crcError then satInc e.counters.crcErrors else e.counters.crcErrors }
      ∧ (e.missCount + 1 < e.missLimit → exec (rowOf event) s = .next (State.continueCycle
        (State.afterOutcome o (past.withStation k { e with
          state := .degraded
          report := e.reportAfter s.st.stateEvents .degraded
          missCount := e.missCount + 1
          counters := counters }))))
      ∧ (e.missLimit ≤ e.missCount + 1 → s.SlotsSound → ∃ tt : TransactionTable,
        TransactionTable.EndsWaiting s.tt tt [k] (.station .lost)
        ∧ exec (rowOf event) s = .next (State.continueCycle (State.afterOutcome o (State.withStation { past with
            tt := tt
            fl := (s.fl.endCause .stationError (k.val + 1)).raise .stationLost (k.val + 1)
              (match d with
                | .timeout => 1 | .crcError => 2 | .malformed => 3 | .toggleError => 4
                | .misaddressed => 5) s.cs.cycle
            hqi := { s.hqi with readyList := s.hqi.readyList ++ s.confirmEntries [k] } } k
            { e.confirmEnded (.station .lost) with
              state := .lost
              report := e.reportAfter s.st.stateEvents .lost
              missCount := e.missLimit
              inputsValid := false
              counters := counters }))))

/-- R28 to R31, R46: a GOOD IDENT records the identity, resets the toggle and clears resync required; one that
matches takes a PROBING, LOST or MISMATCH station into service; one that differs takes it, or one in service,
to MISMATCH with the first differing field as the fault's detail. Any other outcome of a probe only counts
(a MISADDRESSED one also as unexpected traffic, in the order of log entry 10). -/
def Obligations.ProbeIdentityJudged : Prop :=
  ∀ (s : State) (event : OutcomeEvent) (k : StationId) (o : LineOutcome),
    s.outcomeAt event = some o → s.cs.inHand = some (.probe k) → (s.station k).state ≠ .unused →
    let e := s.station k
    let past := s.exchangeOver event
    ((∀ payload, o ≠ .good (.data payload)) → exec (rowOf event) s = .next (State.continueCycle
      (State.afterOutcome o (past.withStation k { e with counters := e.counters.count false o }))))
    ∧ ∀ type insize outsize firmware : Byte, ∀ typeHigh : Byte,
      o = .good (.data [type, typeHigh, insize, outsize, firmware]) →
      let identity : Identity := { type := typeHigh ++ type, inputSize := insize, outputSize := outsize
                                   firmware := firmware }
      let recorded := { e with
        learned := some identity
        toggle := false
        resync := false
        counters := { e.counters with goodReplies := e.counters.goodReplies + 1 } }
      let typeFits := e.expectedType = 0xFFFF ∨ e.expectedType = identity.type
      let fits := typeFits ∧ e.inputSize = insize.toNat ∧ e.outputSize = outsize.toNat
      let differs : Byte := if ¬ typeFits then 1 else if e.inputSize ≠ insize.toNat then 2 else 3
      let becomes := fun (f : FaultList) (x : Station) =>
        exec (rowOf event) s = .next (State.continueCycle (State.withStation { past with fl := f } k x))
      (fits → e.state ∈ [.probing, .lost, .mismatch] → becomes
        (if e.state = .lost then s.fl.endCause .stationLost (k.val + 1)
          else if e.state = .mismatch then s.fl.endCause .stationMismatch (k.val + 1) else s.fl)
        { recorded with
          state := .active
          report := e.reportAfter s.st.stateEvents .active
          missCount := 0
          statusCode := 0 })
      ∧ (fits → e.state ∈ [.active, .degraded] → becomes s.fl recorded)
      ∧ (e.state = .restarting → becomes s.fl recorded)
      ∧ (¬ fits → e.state ≠ .restarting → becomes
        ((if e.state = .lost then s.fl.endCause .stationLost (k.val + 1)
          else if e.state ∈ [.active, .degraded] then s.fl.endCause .stationError (k.val + 1)
          else s.fl).raise .stationMismatch (k.val + 1) differs s.cs.cycle)
        { recorded with
          state := .mismatch
          report := e.reportAfter s.st.stateEvents .mismatch
          missCount := 0
          inputsValid := false })

/-- R39, R46, R105, R111, R115: the reply of its kind to an attempt's frame completes the transaction OK, with
the data of a read; a write flips the station's toggle, a restart flips it and takes the station to
RESTARTING. An ABORT that waits for the attempt completes TOO_LATE (its row is read by log entry 16). -/
def Obligations.AttemptCompletesOk : Prop :=
  ∀ (s : State) (event : OutcomeEvent) (i : SlotId) (k : StationId) (o : LineOutcome) (q : ControlRequest),
    s.outcomeAt event = some o → s.cs.inHand = some (.attempt i k) → (s.slot i).station = some k →
    (s.station k).state ≠ .unused → (s.slot i).form = some .frame →
    ((s.slot i).abortPending = true → s.sc.request = some q) →
    let x := s.slot i
    let e := { s.station k with counters := { (s.station k).counters with
      goodReplies := (s.station k).counters.goodReplies + 1 } }
    let past := if x.abortPending then (s.exchangeOver event).controlAnswered q (.rejected .tooLate)
      (halfBytes (BitVec.ofNat 16 (x.index % 1024))) [] else s.exchangeOver event
    let done := fun (data : List Byte) (n : Nat) => { s.tt with
      slots := s.tt.slots.set i (x.doneWith .ok data n)
      fifos := s.tt.fifos.set k ((s.fifo k).filter (· ≠ i))
      doneQueue := s.tt.doneQueue ++ [i] }
    ∀ row ∈ (rowOf event) :: (if x.abortPending then [.abortResolved event] else []),
      (∀ payload, x.kind = some .read → o = .good (.data payload) → exec row s = .next (State.continueCycle
        (State.withStation { past with tt := done payload x.count } k e)))
      ∧ (x.kind = some .write → o = .good .done → exec row s = .next (State.continueCycle
        (State.withStation { past with tt := done x.data 0 } k { e with toggle := !e.toggle })))
      ∧ (x.kind = some .restart → o = .good .done → exec row s = .next (State.continueCycle
        (State.withStation { past with
          tt := done x.data 0
          fl := if e.state = .mismatch then
              (s.fl.endCause .stationError (k.val + 1)).endCause .stationMismatch (k.val + 1)
            else s.fl.endCause .stationError (k.val + 1) } k
          { e with
            toggle := !e.toggle
            state := .restarting
            report := e.reportAfter s.st.stateEvents .restarting
            missCount := 0
            inputsValid := false
            restartTimer := some (e.restartDelay * 1000) })))

/-- R28, R46, R106 to R111: every outcome is counted at the station; one that does not complete the transaction, with nothing else to decide the slot:
a failed attempt is made again or ends LINK at the attempt limit, WAIT sends the slot into BACKOFF or ends it
BUSY, REFUSE ends it REFUSED with the reason, and a GOOD resync puts it back, or ends it MISMATCH where the
identity differs. A failure leaves a write or restart in doubt, and one that ends so sets resync required.
The place of the MISADDRESSED count is the model's choice (log entry 10). -/
def Obligations.AttemptGoesOnOrEnds : Prop :=
  (∀ (c : StationCounters) (poll : Bool) (o : LineOutcome),
    let good := (∃ payload, o = .good (.data payload)) ∨ o = .good .done
    let up := fun x : Half => if x = 0xFFFF then x else x + 1
    (c.count poll o).pollsSent = (if poll then c.pollsSent + 1 else c.pollsSent)
    ∧ (good → (c.count poll o).goodReplies = c.goodReplies + 1)
    ∧ (¬ good → (c.count poll o).goodReplies = c.goodReplies)
    ∧ ((∃ hint, o = .good (.wait hint)) → (c.count poll o).waits = up c.waits)
    ∧ ((∀ hint, o ≠ .good (.wait hint)) → (c.count poll o).waits = c.waits)
    ∧ ((∃ reason, o = .good (.refuse reason)) → (c.count poll o).refuses = up c.refuses)
    ∧ ((∀ reason, o ≠ .good (.refuse reason)) → (c.count poll o).refuses = c.refuses)
    ∧ (c.count poll o).timeouts = (if o = .failed .timeout then up c.timeouts else c.timeouts)
    ∧ (c.count poll o).crcErrors = (if o = .failed .crcError then up c.crcErrors else c.crcErrors))
  ∧ ∀ (s : State) (event : OutcomeEvent) (i : SlotId) (k : StationId) (o : LineOutcome),
    s.outcomeAt event = some o → s.cs.inHand = some (.attempt i k) → (s.slot i).station = some k →
    (s.station k).state ≠ .unused → (s.slot i).abortPending = false → (s.station k).removePending = false →
    s.tt.ending = none →
    let x := s.slot i
    let e := { s.station k with counters := (s.station k).counters.count false o }
    let past := s.exchangeOver event
    let effectful := x.kind = some .write ∨ x.kind = some .restart
    let back := fun y : Slot => { s.tt with slots := s.tt.slots.set i y }
    let ended := fun y : Slot => { s.tt with
      slots := s.tt.slots.set i y
      fifos := s.tt.fifos.set k ((s.fifo k).filter (· ≠ i))
      doneQueue := s.tt.doneQueue ++ [i] }
    let becomes := fun u : State => exec (rowOf event) s = .next (State.continueCycle (State.afterOutcome o u))
    (∀ d, o = .failed d →
      let y := { x with
        attemptCount := x.attemptCount + 1
        doubtful := x.doubtful || decide (x.form = some AttemptForm.frame ∧ effectful ∧ d ≠ LinkDetail.misaddressed) }
      (x.attemptCount + 1 < s.tt.attemptLimit → becomes (State.withStation { past with
        tt := back { y with state := .queued, form := none } } k e))
      ∧ (s.tt.attemptLimit ≤ x.attemptCount + 1 → becomes (State.withStation { past with
        tt := ended (y.doneWith (.link d) x.data 0) } k
        { e with resync := e.resync || decide (effectful ∧ y.doubtful = true) })))
    ∧ (∀ hint, o = .good (.wait hint) →
      (x.waitCount + 1 ≤ s.tt.waitLimit → becomes (State.withStation { past with
        tt := back { x with
          state := .backoff
          form := none
          waitCount := x.waitCount + 1
          backoffTimer := some (if hint = 0 then s.tt.defaultBackoff else 100 * hint.toNat) } } k e))
      ∧ (s.tt.waitLimit < x.waitCount + 1 → becomes (State.withStation { past with
        tt := ended ({ x with waitCount := x.waitCount + 1 }.doneWith (.station .busy) x.data 0) } k e)))
    ∧ (∀ reason, o = .good (.refuse reason) → becomes (State.withStation { past with
        tt := ended (x.doneWith (.station .refused) [reason] 1) } k e))
    ∧ (∀ payload, o = .good (.data payload) → x.form = some .resync →
      let judged := (past.withStation k e).goodIdent k (identityOf payload)
      ((s.station k).mismatch (identityOf payload) = none → becomes { judged with
        tt := back { x with state := .queued, form := none, attemptCount := x.attemptCount + 1 } })
      ∧ ((s.station k).mismatch (identityOf payload) ≠ none → becomes { judged with
        tt := ended (x.doneWith (.station .mismatch) x.data 0) }))

/-- R45, R108, R110, R115 to R117: an attempt that does not complete its transaction ends it ENDED/ABORTED where
an ABORT waits for it (which completes OK), else STATION/REMOVED where the station is being removed, else with
the code of the stop or close that waits. The place of the MISADDRESSED count and the reading of ABORT_RESOLVED
are the model's choice (log entries 10 and 16); that the slot's two counts stay is read as log entry 25 says. -/
def Obligations.DecidedAttemptEnds : Prop :=
  ∀ (s : State) (event : OutcomeEvent) (i : SlotId) (k : StationId) (o : LineOutcome) (q : ControlRequest)
    (code : Status),
    s.outcomeAt event = some o → s.cs.inHand = some (.attempt i k) → (s.slot i).station = some k →
    (s.station k).state ≠ .unused → ((s.slot i).abortPending = true → s.sc.request = some q) →
    let x := s.slot i
    ¬ (x.form = some .frame ∧ ((x.kind = some .read ∧ ∃ payload, o = .good (.data payload))
      ∨ (x.kind ∈ [some .write, some .restart] ∧ o = .good .done))) →
    (if x.abortPending then code = .ended .aborted
      else if (s.station k).removePending then code = .station .removed
      else (s.tt.ending = some .cyclesStopped ∧ code = .ended .cyclesStopped)
        ∨ (s.tt.ending = some .sessionClosed ∧ code = .ended .sessionClosed)) →
    let effectful := x.kind = some .write ∨ x.kind = some .restart
    let doubtful := x.doubtful
      || decide (x.form = some AttemptForm.frame ∧ effectful ∧ o ∈ [.failed .timeout, .failed .crcError, .failed .malformed,
          .failed .toggleError])
    let past := if x.abortPending then (s.exchangeOver event).controlAnswered q .ok
      (halfBytes (BitVec.ofNat 16 (x.index % 1024))) [] else s.exchangeOver event
    let counted := past.withStation k { s.station k with counters := (s.station k).counters.count false o }
    let judged := match o, x.form with
      | .good (.data payload), some .resync => counted.goodIdent k (identityOf payload)
      | _, _ => counted
    ∀ row ∈ (rowOf event) :: (if x.abortPending then [.abortResolved event] else []),
      exec row s = .next (State.continueCycle (State.afterOutcome o (State.withStation { judged with
        tt := { s.tt with
          slots := s.tt.slots.set i ({ x with doubtful := doubtful }.doneWith code x.data 0)
          fifos := s.tt.fifos.set k ((s.fifo k).filter (· ≠ i))
          doneQueue := s.tt.doneQueue ++ [i] } } k
        { judged.station k with
          resync := (judged.station k).resync
            || (x.abortPending && doubtful && decide effectful) })))

/-! ## The cycle -/

/-- R21, R54, R55, R64 to R69: the four moments at which a cycle starts, as CYCLE_START and as the row of the
event itself: the cycle that ends is recorded (busy times, and an end of the overrun run where it did not
overrun), the cycle number counts on, the LC is told, and the poll list is the stations in service whose
divisor makes them due. The reading of CYCLE_START is the model's choice (log entry 16). -/
def Obligations.CycleStartsAtItsMoment : Prop :=
  ∀ s : State, s.sc.engine = .run → s.sc.teardown = .none →
    let busy : Word := BitVec.ofNat 32 (min (s.cs.activityEnd.getD s.cs.startTime - s.cs.startTime) (2 ^ 32 - 1))
    let number := s.cs.cycle + 1
    let faults := if s.cs.overrun then s.fl else s.fl.endCause .cycleOverrun 0
    let due := allStations.filter fun k => (s.station k).inService && !(s.station k).removePending
      && decide (number.toNat % (s.station k).divisor = (k.val + 1) % (s.station k).divisor)
    let started := fun lc : LineController => Host.Outcome.next (State.pollRest due { s with
      fl := if s.lc.perCycle = 0 then faults.endCause .lineFault 0 else faults
      lc := { lc with perCycle := 0 }
      cs := { s.cs with
        cycle := number
        startTime := s.now
        due := if s.cs.mode = .fixed then some (s.now + s.cs.period) else none
        cycleTimer := some (if s.cs.mode = .fixed then s.cs.period else 100)
        emptyGapTimer := none
        overrun := false
        attempts := 0
        pollsSent := false
        activityEnd := none
        exchanged := false
        phase := .poll
        runLength := if s.cs.overrun then s.cs.runLength else 0
        lastBusy := some busy
        minBusy := some (match s.cs.minBusy with
          | none => busy
          | some m => if busy < m then busy else m)
        maxBusy := some (match s.cs.maxBusy with
          | none => busy
          | some m => if m < busy then busy else m) } })
    (s.cs.mode = .fixed → s.cs.cycleTimer = some 0 →
      s.cs.phase = .awaitStart ∨ (s.cs.phase = .window ∧ s.cs.inHand = none) →
      ∀ row ∈ [Instr.cycleStart .cycleDue, .cycleDue], exec row s = started s.lc)
    ∧ (s.cs.mode = .freeRun → s.cs.phase = .awaitStart → s.cs.cycleTimer = some 0 →
      (s.cs.exchanged = true ∧ s.lc.state = .idle) ∨ (s.cs.exchanged = false ∧ s.cs.emptyGapTimer = none) →
      ∀ row ∈ [Instr.cycleStart .freeRunMinimum, .freeRunMinimumExpiry], exec row s = started s.lc)
    ∧ (s.cs.mode = .freeRun → s.cs.phase = .awaitStart → s.cs.cycleTimer = none → s.cs.exchanged = false →
      s.cs.emptyGapTimer = some 0 →
      ∀ row ∈ [Instr.cycleStart .emptyCycleGap, .emptyCycleGapExpiry], exec row s = started s.lc)
    ∧ (s.cs.phase = .awaitStart → s.lc.state = .gap → s.lc.gapTimer = some 0 → s.lc.held = none →
      (s.cs.mode = .fixed ∧ s.cs.overrun = true)
        ∨ (s.cs.mode = .freeRun ∧ s.cs.exchanged = true ∧ s.cs.cycleTimer = none) →
      ∀ row ∈ [Instr.cycleStart .gapEnd, .gapEnd],
        exec row s = started { s.lc with state := .idle, gapTimer := none })

/-- R64, R65, R67, R68: a due time that finds the cycle's activity unfinished makes the cycle overrun: the counts
go up, the cycle timer stops, and from the third overrun in a row on CYCLE_OVERRUN is raised with the length of
the run. In free run a moment that comes while the other is still ahead is only noted. That CYCLE_START does nothing where
its event starts no cycle is the model's choice (log entry 16). -/
def Obligations.CycleTimersWithoutStart : Prop :=
  ∀ s : State,
    let length := satInc s.cs.runLength
    (s.sc.engine = .run → s.sc.teardown = .none → s.cs.mode = .fixed → s.cs.cycleTimer = some 0 →
      s.cs.phase ≠ .awaitStart → ¬ (s.cs.phase = .window ∧ s.cs.inHand = none) →
      exec .cycleDue s = .next { s with
        cs := { s.cs with
          overrun := true
          overrunCount := s.cs.overrunCount + 1
          runLength := length
          cycleTimer := none }
        fl := if 3 ≤ length.toNat then
            s.fl.raise .cycleOverrun 0 (BitVec.ofNat 8 (min length.toNat 255)) s.cs.cycle
          else s.fl })
    ∧ (s.sc.engine = .run → s.sc.teardown = .none → s.cs.mode = .freeRun → s.cs.cycleTimer = some 0 →
      s.cs.phase ≠ .awaitStart ∨ (s.cs.exchanged = true ∧ s.lc.state ≠ .idle)
        ∨ (s.cs.exchanged = false ∧ s.cs.emptyGapTimer ≠ none) →
      exec .freeRunMinimumExpiry s = .next { s with cs := { s.cs with cycleTimer := none } })
    ∧ (s.cs.emptyGapTimer = some 0 → s.cs.cycleTimer ≠ none →
      exec .emptyCycleGapExpiry s = .next { s with cs := { s.cs with emptyGapTimer := none } })
    ∧ (∀ trigger, s.starts trigger = false → exec (.cycleStart trigger) s = .next s)

/-- R52, R56 to R58, R24, R71, R74, R77, R151, R154: outside RUN, or with a stop or close taken, the CS makes no
further exchange. Otherwise, what it does next in the poll, sync and probe phases, once nothing is in hand: the next station of the poll list still in the poll set, SYNC if it is on and a POLL was sent, the next
probe candidate after the probe pointer (a MISMATCH station is none while a restart put back is at the front of
its FIFO), and then the acyclic window, where a FIXED cycle first makes the
forced attempt. An overrunning cycle makes no probe and no forced attempt. That an attempt is counted in a FIXED cycle is
read as log entry 13 says, and that the poll list holds what is still to be polled is the model's choice (log
entry 24). -/
def Obligations.PollSyncAndProbePhases : Prop :=
  (∀ s : State, s.sc.engine ≠ .run ∨ s.sc.teardown ≠ .none → s.continueCycle = s)
  ∧ ∀ s : State, s.sc.engine = .run → s.sc.teardown = .none →
    let restarting := fun k => ∃ i, (s.fifo k).head? = some i ∧ (s.slot i).kind = some .restart
      ∧ (0 < (s.slot i).attemptCount ∨ 0 < (s.slot i).waitCount)
    let candidate := fun k => (s.station k).removePending = false
      ∧ ((s.station k).state ∈ [.probing, .lost] ∨ ((s.station k).state = .mismatch ∧ ¬ restarting k))
    let distance := fun k : StationId => (k.val + 31 - s.cs.probePointer) % 31
    let ident := fun k : StationId =>
      { address := k.val + 1, kind := .ident, toggle := false, payload := [], dataLength := some 5 }
    let probe := { s with cs := { s.cs with phase := .probe } }
    let window := { s with cs := { s.cs with phase := .window } }
    (∀ k rest, s.cs.phase = .poll → s.cs.pollList = k :: rest →
      ((s.station k).inService = true → (s.station k).removePending = false →
        s.continueCycle = State.withStation { s with
          cs := { s.cs with inHand := some (.poll k), exchanged := true, pollsSent := true, pollList := rest }
          lc := s.lc.request {
            address := k.val + 1
            kind := .poll
            toggle := false
            payload := if s.hm.safe then 1 :: (s.station k).safeImage else 0 :: (s.station k).outputImage
            dataLength := some (1 + (s.station k).inputSize) } } k
          { s.station k with
            confirm := if s.hm.safe then (s.station k).confirm
              else (s.station k).confirm.map fun c => { c with carried := true } })
      ∧ ((s.station k).inService = false ∨ (s.station k).removePending = true →
        s.continueCycle = State.continueCycle { s with cs := { s.cs with pollList := rest } }))
    ∧ (s.cs.phase = .poll → s.cs.pollList = [] →
      (s.cs.syncOption = true → s.cs.pollsSent = true → s.continueCycle = { s with
        cs := { s.cs with inHand := some .sync, exchanged := true, phase := .sync }
        lc := s.lc.request {
          address := 0
          kind := .sync
          toggle := false
          payload := [BitVec.ofNat 8 s.cs.cycle.toNat]
          dataLength := none } })
      ∧ (s.cs.syncOption = false ∨ s.cs.pollsSent = false →
        s.continueCycle = State.continueCycle { s with cs := { s.cs with phase := .sync } }))
    ∧ (s.cs.phase = .sync →
      (s.cs.overrun = true ∨ (∀ k, ¬ candidate k) → s.continueCycle = probe.continueCycle)
      ∧ (∀ k, s.cs.overrun = false → s.cs.probePointer ≤ 31 → candidate k →
        (∀ j, candidate j → distance k ≤ distance j) → s.continueCycle = { s with
          cs := { s.cs with
            inHand := some (.probe k)
            exchanged := true
            phase := .probe
            probePointer := k.val + 1 }
          lc := s.lc.request (ident k) }))
    ∧ (s.cs.phase = .probe →
      let forced := fun i => s.eligible i = true ∧ (s.slot i).fitPass = 4
      (s.cs.overrun = true ∨ s.cs.mode = .freeRun ∨ (∀ i ∈ s.tt.age, ¬ forced i) →
        s.continueCycle = window.continueCycle)
      ∧ (∀ before i after k, s.cs.overrun = false → s.cs.mode = .fixed → s.tt.age = before ++ i :: after →
        (∀ j ∈ before, ¬ forced j) → forced i → (s.slot i).station = some k →
        s.continueCycle = { s with
          cs := { s.cs with
            phase := .window
            inHand := some (.attempt i k)
            exchanged := true
            attempts := satInc s.cs.attempts }
          tt := { s.tt with slots := s.tt.slots.set i { s.slot i with
            state := .onLink, fitPass := 0, form := some (s.nextForm i) } }
          lc := s.lc.request (s.attemptRequest i k) }))

/-- R59 to R65, R71, R102, R103, R151, R154: the acyclic window takes the oldest eligible slot: in a FIXED cycle if its worst-case
attempt time fits before the due time (else its fit-pass count goes up and the window closes; with no eligible
slot the window stays open), in free run while the attempt budget lasts. A cycle whose activity ends with no
exchange made has its start time as activity end time. A report of an eligible slot acts only on an open FIXED
window of a cycle that goes on: not in another phase, outside RUN, or with a stop or close taken. The worst-case time is the gap, the request's and the reply's byte times and the
response timeout. That attempts are counted in both period modes is read as log entry 13 says. -/
def Obligations.AcyclicWindowServesOldestThatFits : Prop :=
  (∀ s : State, s.sc.engine ≠ .run ∨ s.sc.teardown ≠ .none ∨ s.cs.phase ≠ .window → s.reportEligible = s)
  ∧ ∀ s : State, s.sc.engine = .run → s.sc.teardown = .none → s.cs.phase = .window →
    let closed := fun u : State => { u with cs := { u.cs with
      phase := .awaitStart
      activityEnd := some (s.cs.activityEnd.getD s.cs.startTime)
      emptyGapTimer := if s.cs.mode = .freeRun ∧ s.cs.exchanged = false then
          some (s.lc.params.elim 0 LineParams.gapTime) else s.cs.emptyGapTimer } }
    let eligible := fun i => ∃ k, (s.slot i).station = some k ∧ (s.slot i).state = .queued
      ∧ (s.fifo k).head? = some i ∧ (s.station k).removePending = false
      ∧ ((s.station k).state ∈ [.active, .degraded]
        ∨ ((s.station k).state = .mismatch ∧ (s.slot i).kind = some .restart))
    (s.cs.overrun = true → s.continueCycle = closed s)
    ∧ (s.cs.overrun = false → (∀ i ∈ s.tt.age, ¬ eligible i) →
      s.continueCycle = if s.cs.mode = .fixed then
          { s with cs := { s.cs with activityEnd := some (s.cs.activityEnd.getD s.cs.startTime) } }
        else closed s)
    ∧ (s.cs.overrun = false → s.cs.mode = .freeRun → s.cs.budget ≤ s.cs.attempts.toNat →
      s.continueCycle = closed s)
    ∧ (s.cs.overrun = false → ∀ before i after k p, s.tt.age = before ++ i :: after →
      (∀ j ∈ before, ¬ eligible j) → eligible i → (s.slot i).station = some k → s.lc.params = some p →
      let resync := (s.station k).resync = true ∧ (s.slot i).kind ∈ [some .write, some .restart]
      let request := if resync then 0 else match (s.slot i).kind with
        | some .read => 3
        | some .write => 2 + (s.slot i).data.length
        | some .restart | none => 0
      let reply := if resync then 5 else match (s.slot i).kind with
        | some .read => (s.slot i).count
        | some .write | some .restart => 1
        | none => 0
      let fits := ∃ due, s.cs.due = some due ∧ s.now + (p.gapTime + p.rate.byteTimes (6 + request)
        + p.responseTimeout + p.rate.byteTimes (6 + reply)) ≤ due
      let taken := { s with
        cs := { s.cs with inHand := some (.attempt i k), exchanged := true, attempts := satInc s.cs.attempts }
        tt := { s.tt with slots := s.tt.slots.set i { s.slot i with
          state := .onLink
          fitPass := 0
          form := some (if resync then .resync else .frame) } }
        lc := s.lc.request (s.attemptRequest i k) }
      (s.cs.mode = .fixed → fits → s.continueCycle = taken)
      ∧ (s.cs.mode = .fixed → ¬ fits → s.continueCycle = closed (s.withSlot i { s.slot i with
        fitPass := min ((s.slot i).fitPass + 1) 4 }))
      ∧ (s.cs.mode = .freeRun → s.cs.attempts.toNat < s.cs.budget → s.continueCycle = taken))
    ∧ (s.cs.inHand = none → s.cs.mode = .fixed → s.reportEligible = s.continueCycle)
    ∧ (s.cs.inHand ≠ none ∨ s.cs.mode = .freeRun → s.reportEligible = s)

/-! ## The other timers -/

/-- R40, R48, R106: a backoff timer's expiry puts the slot back to QUEUED, which an open window is told of; a
restart timer's expiry takes the station to PROBING. That BACKOFF_EXPIRY and RESTART_TIMER_EXPIRY change nothing
where no such timer stands at 0 is the model's choice (log entries 1 and 5). -/
def Obligations.BackoffAndRestartTimersExpire : Prop :=
  ∀ s : State, s.sc.engine ≠ .halted →
    (∀ i, (s.slot i).state = .backoff → (s.slot i).backoffTimer = some 0 →
      exec (.backoffExpiry i) s = .next (State.reportEligible
        (s.withSlot i { s.slot i with state := .queued, backoffTimer := none })))
    ∧ (∀ i, (s.slot i).state ≠ .backoff ∨ (s.slot i).backoffTimer ≠ some 0 →
      exec (.backoffExpiry i) s = .next s)
    ∧ (∀ k, (s.station k).state = .restarting → (s.station k).restartTimer = some 0 →
      exec (.restartTimerExpiry k) s = .next (s.withStation k { s.station k with
        state := .probing
        report := (s.station k).reportAfter s.st.stateEvents .probing
        restartTimer := none
        missCount := 0 }))
    ∧ (∀ k, (s.station k).state ≠ .restarting ∨ (s.station k).restartTimer ≠ some 0 →
      exec (.restartTimerExpiry k) s = .next s)

/-- R91, R96, R80, R123: the hold timer's expiry in RUN enters SAFE: the SAFE event counts it, every pending
confirm ends OUTPUTS_HELD, a POLL that the LC still holds is rebuilt with the safe image, and HOLD_EXPIRED is
raised with the number of stations in service. -/
def Obligations.HoldExpiryEntersSafe : Prop :=
  ∀ s : State, s.sc.engine = .run → s.hm.timer = some 0 →
    ∃ t, exec .holdTimerExpiry s = .next t
      ∧ t = { s with
        hm := { s.hm with
          safe := true
          timer := none
          event := { s.hm.event with
            count := satInc s.hm.event.count
            pending := s.hm.event.pending || !s.hm.event.inStaging } }
        st := t.st
        hqi := { s.hqi with readyList := s.hqi.readyList ++ s.confirmEntries allStations }
        lc := t.lc
        fl := s.fl.raise .holdExpired 0
          (BitVec.ofNat 8 (allStations.filter fun k => (s.station k).inService).length) s.cs.cycle }
      ∧ t.st.stateEvents = s.st.stateEvents
      ∧ (∀ k, t.station k = (s.station k).confirmEnded (.station .outputsHeld))
      ∧ (∀ (k : StationId) (held : SendRequest), s.lc.held = some held → held.kind = .poll →
        held.address = k.val + 1 → t.lc = { s.lc with held := some {
          address := k.val + 1
          kind := .poll
          toggle := false
          payload := 1 :: (s.station k).safeImage
          dataLength := some (1 + (s.station k).inputSize) } })
      ∧ ((∀ held, s.lc.held = some held → held.kind ≠ .poll) → t.lc = s.lc)

/-! ## The fault list -/

/-- R124 to R127, R135: a raise folds into the entry of its kind and station, or makes a new entry at the end, or
overflows a full list; an end of cause moves an ACTIVE entry to ENDED, or removes it where it is acknowledged.
Each is one change: counted, carried and made pending unless the record is in staging. -/
def Obligations.FaultListRaisesAndEnds : Prop :=
  ∀ (f : FaultList) (kind : FaultKind) (station : Nat) (detail : Byte) (cycle : Word),
    let other := fun e : FaultEntry => e.kind ≠ kind ∨ e.station ≠ station
    let changed := { f with changes := satInc f.changes, pending := f.pending || !f.inStaging }
    (∀ before e after, f.entries = before ++ e :: after → (∀ x ∈ before, other x) → (∀ x ∈ after, other x) →
      e.kind = kind → e.station = station →
      f.raise kind station detail cycle = { changed with
        entries := before ++ { e with
          detail := detail
          ended := false
          acknowledged := false
          lastCycle := cycle
          occurrences := satInc e.occurrences } :: after
        carried := .entry kind station }
      ∧ (e.ended = true → f.endCause kind station = f)
      ∧ (e.ended = false → e.acknowledged = false → f.endCause kind station = { changed with
        entries := before ++ { e with ended := true } :: after
        carried := .entry kind station })
      ∧ (e.ended = false → e.acknowledged = true → f.endCause kind station = { changed with
        entries := before ++ after
        carried := .removed { e with ended := true } before.length }))
    ∧ ((∀ x ∈ f.entries, other x) →
      f.endCause kind station = f
      ∧ (f.entries.length < 16 → f.raise kind station detail cycle = { changed with
        entries := f.entries ++ [{
          kind := kind
          station := station
          detail := detail
          ended := false
          acknowledged := false
          firstCycle := cycle
          lastCycle := cycle
          occurrences := 1 }]
        carried := .entry kind station })
      ∧ (16 ≤ f.entries.length → f.raise kind station detail cycle = { changed with
        overflow := satInc f.overflow }))

/-! ## Invariants -/

/-- What a power-on reset leaves satisfies every invariant below. -/
def Obligations.ResetStateIsSound : Prop :=
  State.reset.fl.Sound ∧ State.reset.StationsSound ∧ State.reset.SlotsSound ∧ State.reset.StagingSound
    ∧ State.reset.RingsSound

/-- R124, R128: whatever step the part takes, its fault list keeps at most 16 entries, no two of one kind and
station, and none both ENDED and acknowledged. -/
def Obligations.StepsKeepFaultListSound : Prop :=
  ∀ s t : State, s.fl.Sound → step s = .next t → t.fl.Sound

/-- R36, R37: whatever step the part takes, every station keeps its miss count between 0 and its miss limit, at
the limit exactly in LOST and 0 outside DEGRADED and LOST, and its inputs are valid only in service. -/
def Obligations.StepsKeepStationsSound : Prop :=
  ∀ s t : State, s.StationsSound → step s = .next t → t.StationsSound

/-- R98, R101: whatever step the part takes, the age list holds the non-FREE slots, the done queue the DONE ones
and each FIFO its station's unfinished slots in take order, and the attempt in hand is an ON_LINK slot's. -/
def Obligations.StepsKeepSlotsSound : Prop :=
  ∀ s t : State, s.SlotsSound → step s = .next t → t.SlotsSound

/-- R49, R84, R96, R135, R178, R180: whatever step the part takes, the staging buffer holds at most 8 records and
each event source has at most one event unposted. -/
def Obligations.StepsKeepOneEventUnposted : Prop :=
  ∀ s t : State, s.StagingSound → step s = .next t → t.StagingSound

/-- R173, R176: whatever step the part takes, at most one record of the transfer ring is read, held, taken or
answered at a time, no control record is read while a control request is in progress, and the fetch and the
post take turns on the master port. -/
def Obligations.StepsKeepRingsSound : Prop :=
  ∀ s t : State, s.RingsSound → step s = .next t → t.RingsSound
end

