-- ==== Sys2Proof/Laws/State.lean ====
section
/-! SUPPORT. What the named operations leave alone and what they write: one small lemma for each field of
the state and each operation, so that no proof unfolds a record update. -/

namespace Sys2Proof.Machine

/-! ### Reading what was written -/

@[simp] theorem State.updStation_station (k : StationId) (f : Station → Station) (s : State) :
    (s.updStation k f).station k = f (s.station k) := by
  simp [State.updStation, State.station]

theorem State.updStation_station_ne (k j : StationId) (f : Station → Station) (s : State) (h : j ≠ k) :
    (s.updStation k f).station j = s.station j := by
  have h' : k.val ≠ j.val := fun e => h (Fin.ext e.symm)
  simp [State.updStation, State.station, h']

@[simp] theorem State.updStation_stateEvents (k : StationId) (f : Station → Station) (s : State) :
    (s.updStation k f).st.stateEvents = s.st.stateEvents := rfl

@[simp] theorem State.moveStation_stateEvents (k : StationId) (d : StationState) (s : State) :
    (s.moveStation k d).st.stateEvents = s.st.stateEvents := rfl

@[simp] theorem State.moveStation_station (k : StationId) (d : StationState) (s : State) :
    (s.moveStation k d).station k = (s.station k).moveTo s.st.stateEvents d := by
  simp [State.moveStation]

theorem State.moveStation_station_ne (k j : StationId) (d : StationState) (s : State) (h : j ≠ k) :
    (s.moveStation k d).station j = s.station j := State.updStation_station_ne k j _ s h

@[simp] theorem State.updSlot_slot (i : SlotId) (f : Slot → Slot) (s : State) :
    (s.updSlot i f).slot i = f (s.slot i) := by
  simp [State.updSlot, State.slot]

theorem State.updSlot_slot_ne (i j : SlotId) (f : Slot → Slot) (s : State) (h : j ≠ i) :
    (s.updSlot i f).slot j = s.slot j := by
  have h' : i.val ≠ j.val := fun e => h (Fin.ext e.symm)
  simp [State.updSlot, State.slot, h']

@[simp] theorem State.updSlot_fifo (i : SlotId) (f : Slot → Slot) (s : State) (k : StationId) :
    (s.updSlot i f).fifo k = s.fifo k := rfl

@[simp] theorem State.updFifo_fifo (k : StationId) (f : List SlotId → List SlotId) (s : State) :
    (s.updFifo k f).fifo k = f (s.fifo k) := by
  simp [State.updFifo, State.fifo]

theorem State.updFifo_fifo_ne (k j : StationId) (f : List SlotId → List SlotId) (s : State) (h : j ≠ k) :
    (s.updFifo k f).fifo j = s.fifo j := by
  have h' : k.val ≠ j.val := fun e => h (Fin.ext e.symm)
  simp [State.updFifo, State.fifo, h']

@[simp] theorem State.updFifo_slot (k : StationId) (f : List SlotId → List SlotId) (s : State)
    (i : SlotId) : (s.updFifo k f).slot i = s.slot i := rfl

@[simp] theorem State.raise_fl (d : FaultKind) (n : Nat) (b : Byte) (s : State) :
    (s.raise d n b).fl = s.fl.raise d n b s.cs.cycle := rfl

@[simp] theorem State.endCause_fl (d : FaultKind) (n : Nat) (s : State) :
    (s.endCause d n).fl = s.fl.endCause d n := rfl

/-- A read of an entry depends on the station table alone. -/
theorem State.station_congr {s t : State} (h : s.st = t.st) (k : StationId) : s.station k = t.station k := by
  simp [State.station, h]

/-- A read of a slot depends on the transaction table alone. -/
theorem State.slot_congr {s t : State} (h : s.tt = t.tt) (i : SlotId) : s.slot i = t.slot i := by
  simp [State.slot, h]

/-- A read of a FIFO depends on the transaction table alone. -/
theorem State.fifo_congr {s t : State} (h : s.tt = t.tt) (k : StationId) : s.fifo k = t.fifo k := by
  simp [State.fifo, h]

/-! ### What moving a station writes -/

@[simp] theorem Station.moveTo_state (b : Bool) (d : StationState) (e : Station) :
    (e.moveTo b d).state = d := by
  unfold Station.moveTo
  split
  · assumption
  · split <;> rfl

/-- R48: a move changes the state and, for a counted transition, the state report; nothing else. -/
theorem Station.moveTo_eq (b : Bool) (d : StationState) (e : Station) :
    e.moveTo b d = { e with state := d, report := (e.moveTo b d).report } := by
  unfold Station.moveTo
  split
  · subst d; rfl
  · split <;> rfl

/-! ### State.updStation -/

@[simp] theorem State.updStation_hqi (k : StationId) (f : Station → Station) (s : State) :
    (State.updStation k f s).hqi = s.hqi := rfl

@[simp] theorem State.updStation_sc (k : StationId) (f : Station → Station) (s : State) :
    (State.updStation k f s).sc = s.sc := rfl

@[simp] theorem State.updStation_lc (k : StationId) (f : Station → Station) (s : State) :
    (State.updStation k f s).lc = s.lc := rfl

@[simp] theorem State.updStation_cs (k : StationId) (f : Station → Station) (s : State) :
    (State.updStation k f s).cs = s.cs := rfl

@[simp] theorem State.updStation_tt (k : StationId) (f : Station → Station) (s : State) :
    (State.updStation k f s).tt = s.tt := rfl

@[simp] theorem State.updStation_hm (k : StationId) (f : Station → Station) (s : State) :
    (State.updStation k f s).hm = s.hm := rfl

@[simp] theorem State.updStation_fl (k : StationId) (f : Station → Station) (s : State) :
    (State.updStation k f s).fl = s.fl := rfl

@[simp] theorem State.updStation_now (k : StationId) (f : Station → Station) (s : State) :
    (State.updStation k f s).now = s.now := rfl

@[simp] theorem State.updStation_bus (k : StationId) (f : Station → Station) (s : State) :
    (State.updStation k f s).bus = s.bus := rfl

@[simp] theorem State.updStation_pending (k : StationId) (f : Station → Station) (s : State) :
    (State.updStation k f s).pending = s.pending := rfl

/-! ### State.moveStation -/

@[simp] theorem State.moveStation_hqi (k : StationId) (d : StationState) (s : State) :
    (State.moveStation k d s).hqi = s.hqi := rfl

@[simp] theorem State.moveStation_sc (k : StationId) (d : StationState) (s : State) :
    (State.moveStation k d s).sc = s.sc := rfl

@[simp] theorem State.moveStation_lc (k : StationId) (d : StationState) (s : State) :
    (State.moveStation k d s).lc = s.lc := rfl

@[simp] theorem State.moveStation_cs (k : StationId) (d : StationState) (s : State) :
    (State.moveStation k d s).cs = s.cs := rfl

@[simp] theorem State.moveStation_tt (k : StationId) (d : StationState) (s : State) :
    (State.moveStation k d s).tt = s.tt := rfl

@[simp] theorem State.moveStation_hm (k : StationId) (d : StationState) (s : State) :
    (State.moveStation k d s).hm = s.hm := rfl

@[simp] theorem State.moveStation_fl (k : StationId) (d : StationState) (s : State) :
    (State.moveStation k d s).fl = s.fl := rfl

@[simp] theorem State.moveStation_now (k : StationId) (d : StationState) (s : State) :
    (State.moveStation k d s).now = s.now := rfl

@[simp] theorem State.moveStation_bus (k : StationId) (d : StationState) (s : State) :
    (State.moveStation k d s).bus = s.bus := rfl

@[simp] theorem State.moveStation_pending (k : StationId) (d : StationState) (s : State) :
    (State.moveStation k d s).pending = s.pending := rfl

/-! ### State.updSlot -/

@[simp] theorem State.updSlot_hqi (i : SlotId) (f : Slot → Slot) (s : State) :
    (State.updSlot i f s).hqi = s.hqi := rfl

@[simp] theorem State.updSlot_sc (i : SlotId) (f : Slot → Slot) (s : State) :
    (State.updSlot i f s).sc = s.sc := rfl

@[simp] theorem State.updSlot_st (i : SlotId) (f : Slot → Slot) (s : State) :
    (State.updSlot i f s).st = s.st := rfl

@[simp] theorem State.updSlot_lc (i : SlotId) (f : Slot → Slot) (s : State) :
    (State.updSlot i f s).lc = s.lc := rfl

@[simp] theorem State.updSlot_cs (i : SlotId) (f : Slot → Slot) (s : State) :
    (State.updSlot i f s).cs = s.cs := rfl

@[simp] theorem State.updSlot_hm (i : SlotId) (f : Slot → Slot) (s : State) :
    (State.updSlot i f s).hm = s.hm := rfl

@[simp] theorem State.updSlot_fl (i : SlotId) (f : Slot → Slot) (s : State) :
    (State.updSlot i f s).fl = s.fl := rfl

@[simp] theorem State.updSlot_now (i : SlotId) (f : Slot → Slot) (s : State) :
    (State.updSlot i f s).now = s.now := rfl

@[simp] theorem State.updSlot_bus (i : SlotId) (f : Slot → Slot) (s : State) :
    (State.updSlot i f s).bus = s.bus := rfl

@[simp] theorem State.updSlot_pending (i : SlotId) (f : Slot → Slot) (s : State) :
    (State.updSlot i f s).pending = s.pending := rfl

/-! ### State.updFifo -/

@[simp] theorem State.updFifo_hqi (k : StationId) (f : List SlotId → List SlotId) (s : State) :
    (State.updFifo k f s).hqi = s.hqi := rfl

@[simp] theorem State.updFifo_sc (k : StationId) (f : List SlotId → List SlotId) (s : State) :
    (State.updFifo k f s).sc = s.sc := rfl

@[simp] theorem State.updFifo_st (k : StationId) (f : List SlotId → List SlotId) (s : State) :
    (State.updFifo k f s).st = s.st := rfl

@[simp] theorem State.updFifo_lc (k : StationId) (f : List SlotId → List SlotId) (s : State) :
    (State.updFifo k f s).lc = s.lc := rfl

@[simp] theorem State.updFifo_cs (k : StationId) (f : List SlotId → List SlotId) (s : State) :
    (State.updFifo k f s).cs = s.cs := rfl

@[simp] theorem State.updFifo_hm (k : StationId) (f : List SlotId → List SlotId) (s : State) :
    (State.updFifo k f s).hm = s.hm := rfl

@[simp] theorem State.updFifo_fl (k : StationId) (f : List SlotId → List SlotId) (s : State) :
    (State.updFifo k f s).fl = s.fl := rfl

@[simp] theorem State.updFifo_now (k : StationId) (f : List SlotId → List SlotId) (s : State) :
    (State.updFifo k f s).now = s.now := rfl

@[simp] theorem State.updFifo_bus (k : StationId) (f : List SlotId → List SlotId) (s : State) :
    (State.updFifo k f s).bus = s.bus := rfl

@[simp] theorem State.updFifo_pending (k : StationId) (f : List SlotId → List SlotId) (s : State) :
    (State.updFifo k f s).pending = s.pending := rfl

/-! ### State.raise -/

@[simp] theorem State.raise_hqi (d : FaultKind) (n : Nat) (b : Byte) (s : State) :
    (State.raise d n b s).hqi = s.hqi := rfl

@[simp] theorem State.raise_sc (d : FaultKind) (n : Nat) (b : Byte) (s : State) :
    (State.raise d n b s).sc = s.sc := rfl

@[simp] theorem State.raise_st (d : FaultKind) (n : Nat) (b : Byte) (s : State) :
    (State.raise d n b s).st = s.st := rfl

@[simp] theorem State.raise_lc (d : FaultKind) (n : Nat) (b : Byte) (s : State) :
    (State.raise d n b s).lc = s.lc := rfl

@[simp] theorem State.raise_cs (d : FaultKind) (n : Nat) (b : Byte) (s : State) :
    (State.raise d n b s).cs = s.cs := rfl

@[simp] theorem State.raise_tt (d : FaultKind) (n : Nat) (b : Byte) (s : State) :
    (State.raise d n b s).tt = s.tt := rfl

@[simp] theorem State.raise_hm (d : FaultKind) (n : Nat) (b : Byte) (s : State) :
    (State.raise d n b s).hm = s.hm := rfl

@[simp] theorem State.raise_now (d : FaultKind) (n : Nat) (b : Byte) (s : State) :
    (State.raise d n b s).now = s.now := rfl

@[simp] theorem State.raise_bus (d : FaultKind) (n : Nat) (b : Byte) (s : State) :
    (State.raise d n b s).bus = s.bus := rfl

@[simp] theorem State.raise_pending (d : FaultKind) (n : Nat) (b : Byte) (s : State) :
    (State.raise d n b s).pending = s.pending := rfl

/-! ### State.endCause -/

@[simp] theorem State.endCause_hqi (d : FaultKind) (n : Nat) (s : State) :
    (State.endCause d n s).hqi = s.hqi := rfl

@[simp] theorem State.endCause_sc (d : FaultKind) (n : Nat) (s : State) :
    (State.endCause d n s).sc = s.sc := rfl

@[simp] theorem State.endCause_st (d : FaultKind) (n : Nat) (s : State) :
    (State.endCause d n s).st = s.st := rfl

@[simp] theorem State.endCause_lc (d : FaultKind) (n : Nat) (s : State) :
    (State.endCause d n s).lc = s.lc := rfl

@[simp] theorem State.endCause_cs (d : FaultKind) (n : Nat) (s : State) :
    (State.endCause d n s).cs = s.cs := rfl

@[simp] theorem State.endCause_tt (d : FaultKind) (n : Nat) (s : State) :
    (State.endCause d n s).tt = s.tt := rfl

@[simp] theorem State.endCause_hm (d : FaultKind) (n : Nat) (s : State) :
    (State.endCause d n s).hm = s.hm := rfl

@[simp] theorem State.endCause_now (d : FaultKind) (n : Nat) (s : State) :
    (State.endCause d n s).now = s.now := rfl

@[simp] theorem State.endCause_bus (d : FaultKind) (n : Nat) (s : State) :
    (State.endCause d n s).bus = s.bus := rfl

@[simp] theorem State.endCause_pending (d : FaultKind) (n : Nat) (s : State) :
    (State.endCause d n s).pending = s.pending := rfl

/-! ### State.completeControl -/

@[simp] theorem State.completeControl_hqi (x : Status) (e d : List Byte) (s : State) :
    (State.completeControl x e d s).hqi = s.hqi := by
  unfold State.completeControl
  split <;> rfl

@[simp] theorem State.completeControl_st (x : Status) (e d : List Byte) (s : State) :
    (State.completeControl x e d s).st = s.st := by
  unfold State.completeControl
  split <;> rfl

@[simp] theorem State.completeControl_lc (x : Status) (e d : List Byte) (s : State) :
    (State.completeControl x e d s).lc = s.lc := by
  unfold State.completeControl
  split <;> rfl

@[simp] theorem State.completeControl_cs (x : Status) (e d : List Byte) (s : State) :
    (State.completeControl x e d s).cs = s.cs := by
  unfold State.completeControl
  split <;> rfl

@[simp] theorem State.completeControl_tt (x : Status) (e d : List Byte) (s : State) :
    (State.completeControl x e d s).tt = s.tt := by
  unfold State.completeControl
  split <;> rfl

@[simp] theorem State.completeControl_hm (x : Status) (e d : List Byte) (s : State) :
    (State.completeControl x e d s).hm = s.hm := by
  unfold State.completeControl
  split <;> rfl

@[simp] theorem State.completeControl_fl (x : Status) (e d : List Byte) (s : State) :
    (State.completeControl x e d s).fl = s.fl := by
  unfold State.completeControl
  split <;> rfl

@[simp] theorem State.completeControl_now (x : Status) (e d : List Byte) (s : State) :
    (State.completeControl x e d s).now = s.now := by
  unfold State.completeControl
  split <;> rfl

@[simp] theorem State.completeControl_bus (x : Status) (e d : List Byte) (s : State) :
    (State.completeControl x e d s).bus = s.bus := by
  unfold State.completeControl
  split <;> rfl

@[simp] theorem State.completeControl_pending (x : Status) (e d : List Byte) (s : State) :
    (State.completeControl x e d s).pending = s.pending := by
  unfold State.completeControl
  split <;> rfl

/-! ### State.answer -/

@[simp] theorem State.answer_hqi (x : Status) (s : State) :
    (State.answer x s).hqi = s.hqi := by simp [State.answer]

@[simp] theorem State.answer_st (x : Status) (s : State) :
    (State.answer x s).st = s.st := by simp [State.answer]

@[simp] theorem State.answer_lc (x : Status) (s : State) :
    (State.answer x s).lc = s.lc := by simp [State.answer]

@[simp] theorem State.answer_cs (x : Status) (s : State) :
    (State.answer x s).cs = s.cs := by simp [State.answer]

@[simp] theorem State.answer_tt (x : Status) (s : State) :
    (State.answer x s).tt = s.tt := by simp [State.answer]

@[simp] theorem State.answer_hm (x : Status) (s : State) :
    (State.answer x s).hm = s.hm := by simp [State.answer]

@[simp] theorem State.answer_fl (x : Status) (s : State) :
    (State.answer x s).fl = s.fl := by simp [State.answer]

@[simp] theorem State.answer_now (x : Status) (s : State) :
    (State.answer x s).now = s.now := by simp [State.answer]

@[simp] theorem State.answer_bus (x : Status) (s : State) :
    (State.answer x s).bus = s.bus := by simp [State.answer]

@[simp] theorem State.answer_pending (x : Status) (s : State) :
    (State.answer x s).pending = s.pending := by simp [State.answer]

/-! ### State.deferControl -/

@[simp] theorem State.deferControl_hqi (s : State) :
    (State.deferControl s).hqi = s.hqi := rfl

@[simp] theorem State.deferControl_st (s : State) :
    (State.deferControl s).st = s.st := rfl

@[simp] theorem State.deferControl_lc (s : State) :
    (State.deferControl s).lc = s.lc := rfl

@[simp] theorem State.deferControl_cs (s : State) :
    (State.deferControl s).cs = s.cs := rfl

@[simp] theorem State.deferControl_tt (s : State) :
    (State.deferControl s).tt = s.tt := rfl

@[simp] theorem State.deferControl_hm (s : State) :
    (State.deferControl s).hm = s.hm := rfl

@[simp] theorem State.deferControl_fl (s : State) :
    (State.deferControl s).fl = s.fl := rfl

@[simp] theorem State.deferControl_now (s : State) :
    (State.deferControl s).now = s.now := rfl

@[simp] theorem State.deferControl_bus (s : State) :
    (State.deferControl s).bus = s.bus := rfl

@[simp] theorem State.deferControl_pending (s : State) :
    (State.deferControl s).pending = s.pending := rfl

/-! ### State.reportLine -/

@[simp] theorem State.reportLine_hqi (s : State) :
    (State.reportLine s).hqi = s.hqi := rfl

@[simp] theorem State.reportLine_st (s : State) :
    (State.reportLine s).st = s.st := rfl

@[simp] theorem State.reportLine_lc (s : State) :
    (State.reportLine s).lc = s.lc := rfl

@[simp] theorem State.reportLine_cs (s : State) :
    (State.reportLine s).cs = s.cs := rfl

@[simp] theorem State.reportLine_tt (s : State) :
    (State.reportLine s).tt = s.tt := rfl

@[simp] theorem State.reportLine_hm (s : State) :
    (State.reportLine s).hm = s.hm := rfl

@[simp] theorem State.reportLine_fl (s : State) :
    (State.reportLine s).fl = s.fl := rfl

@[simp] theorem State.reportLine_now (s : State) :
    (State.reportLine s).now = s.now := rfl

@[simp] theorem State.reportLine_bus (s : State) :
    (State.reportLine s).bus = s.bus := rfl

@[simp] theorem State.reportLine_pending (s : State) :
    (State.reportLine s).pending = s.pending := rfl

/-! ### State.completeTransfer -/

@[simp] theorem State.completeTransfer_sc (t : TakenRecord) (x : Status) (d : List Byte) (s : State) :
    (State.completeTransfer t x d s).sc = s.sc := rfl

@[simp] theorem State.completeTransfer_st (t : TakenRecord) (x : Status) (d : List Byte) (s : State) :
    (State.completeTransfer t x d s).st = s.st := rfl

@[simp] theorem State.completeTransfer_lc (t : TakenRecord) (x : Status) (d : List Byte) (s : State) :
    (State.completeTransfer t x d s).lc = s.lc := rfl

@[simp] theorem State.completeTransfer_cs (t : TakenRecord) (x : Status) (d : List Byte) (s : State) :
    (State.completeTransfer t x d s).cs = s.cs := rfl

@[simp] theorem State.completeTransfer_tt (t : TakenRecord) (x : Status) (d : List Byte) (s : State) :
    (State.completeTransfer t x d s).tt = s.tt := rfl

@[simp] theorem State.completeTransfer_hm (t : TakenRecord) (x : Status) (d : List Byte) (s : State) :
    (State.completeTransfer t x d s).hm = s.hm := rfl

@[simp] theorem State.completeTransfer_fl (t : TakenRecord) (x : Status) (d : List Byte) (s : State) :
    (State.completeTransfer t x d s).fl = s.fl := rfl

@[simp] theorem State.completeTransfer_now (t : TakenRecord) (x : Status) (d : List Byte) (s : State) :
    (State.completeTransfer t x d s).now = s.now := rfl

@[simp] theorem State.completeTransfer_bus (t : TakenRecord) (x : Status) (d : List Byte) (s : State) :
    (State.completeTransfer t x d s).bus = s.bus := rfl

@[simp] theorem State.completeTransfer_pending (t : TakenRecord) (x : Status) (d : List Byte) (s : State) :
    (State.completeTransfer t x d s).pending = s.pending := rfl

/-! ### State.dropTaken -/

@[simp] theorem State.dropTaken_sc (s : State) :
    (State.dropTaken s).sc = s.sc := rfl

@[simp] theorem State.dropTaken_st (s : State) :
    (State.dropTaken s).st = s.st := rfl

@[simp] theorem State.dropTaken_lc (s : State) :
    (State.dropTaken s).lc = s.lc := rfl

@[simp] theorem State.dropTaken_cs (s : State) :
    (State.dropTaken s).cs = s.cs := rfl

@[simp] theorem State.dropTaken_tt (s : State) :
    (State.dropTaken s).tt = s.tt := rfl

@[simp] theorem State.dropTaken_hm (s : State) :
    (State.dropTaken s).hm = s.hm := rfl

@[simp] theorem State.dropTaken_fl (s : State) :
    (State.dropTaken s).fl = s.fl := rfl

@[simp] theorem State.dropTaken_now (s : State) :
    (State.dropTaken s).now = s.now := rfl

@[simp] theorem State.dropTaken_bus (s : State) :
    (State.dropTaken s).bus = s.bus := rfl

@[simp] theorem State.dropTaken_pending (s : State) :
    (State.dropTaken s).pending = s.pending := rfl

/-! ### State.stage -/

@[simp] theorem State.stage_sc (r : CompletionRecord) (o : Owner) (s : State) :
    (State.stage r o s).sc = s.sc := rfl

@[simp] theorem State.stage_st (r : CompletionRecord) (o : Owner) (s : State) :
    (State.stage r o s).st = s.st := rfl

@[simp] theorem State.stage_lc (r : CompletionRecord) (o : Owner) (s : State) :
    (State.stage r o s).lc = s.lc := rfl

@[simp] theorem State.stage_cs (r : CompletionRecord) (o : Owner) (s : State) :
    (State.stage r o s).cs = s.cs := rfl

@[simp] theorem State.stage_tt (r : CompletionRecord) (o : Owner) (s : State) :
    (State.stage r o s).tt = s.tt := rfl

@[simp] theorem State.stage_hm (r : CompletionRecord) (o : Owner) (s : State) :
    (State.stage r o s).hm = s.hm := rfl

@[simp] theorem State.stage_fl (r : CompletionRecord) (o : Owner) (s : State) :
    (State.stage r o s).fl = s.fl := rfl

@[simp] theorem State.stage_now (r : CompletionRecord) (o : Owner) (s : State) :
    (State.stage r o s).now = s.now := rfl

@[simp] theorem State.stage_bus (r : CompletionRecord) (o : Owner) (s : State) :
    (State.stage r o s).bus = s.bus := rfl

@[simp] theorem State.stage_pending (r : CompletionRecord) (o : Owner) (s : State) :
    (State.stage r o s).pending = s.pending := rfl

/-! ### State.endConfirm -/

@[simp] theorem State.endConfirm_sc (k : StationId) (x : Status) (s : State) :
    (State.endConfirm k x s).sc = s.sc := by
  unfold State.endConfirm
  split <;> rfl

@[simp] theorem State.endConfirm_lc (k : StationId) (x : Status) (s : State) :
    (State.endConfirm k x s).lc = s.lc := by
  unfold State.endConfirm
  split <;> rfl

@[simp] theorem State.endConfirm_cs (k : StationId) (x : Status) (s : State) :
    (State.endConfirm k x s).cs = s.cs := by
  unfold State.endConfirm
  split <;> rfl

@[simp] theorem State.endConfirm_tt (k : StationId) (x : Status) (s : State) :
    (State.endConfirm k x s).tt = s.tt := by
  unfold State.endConfirm
  split <;> rfl

@[simp] theorem State.endConfirm_hm (k : StationId) (x : Status) (s : State) :
    (State.endConfirm k x s).hm = s.hm := by
  unfold State.endConfirm
  split <;> rfl

@[simp] theorem State.endConfirm_fl (k : StationId) (x : Status) (s : State) :
    (State.endConfirm k x s).fl = s.fl := by
  unfold State.endConfirm
  split <;> rfl

@[simp] theorem State.endConfirm_now (k : StationId) (x : Status) (s : State) :
    (State.endConfirm k x s).now = s.now := by
  unfold State.endConfirm
  split <;> rfl

@[simp] theorem State.endConfirm_bus (k : StationId) (x : Status) (s : State) :
    (State.endConfirm k x s).bus = s.bus := by
  unfold State.endConfirm
  split <;> rfl

@[simp] theorem State.endConfirm_pending (k : StationId) (x : Status) (s : State) :
    (State.endConfirm k x s).pending = s.pending := by
  unfold State.endConfirm
  split <;> rfl

/-! ### State.leaveFifo -/

@[simp] theorem State.leaveFifo_hqi (i : SlotId) (s : State) :
    (State.leaveFifo i s).hqi = s.hqi := by
  unfold State.leaveFifo
  split <;> rfl

@[simp] theorem State.leaveFifo_sc (i : SlotId) (s : State) :
    (State.leaveFifo i s).sc = s.sc := by
  unfold State.leaveFifo
  split <;> rfl

@[simp] theorem State.leaveFifo_st (i : SlotId) (s : State) :
    (State.leaveFifo i s).st = s.st := by
  unfold State.leaveFifo
  split <;> rfl

@[simp] theorem State.leaveFifo_lc (i : SlotId) (s : State) :
    (State.leaveFifo i s).lc = s.lc := by
  unfold State.leaveFifo
  split <;> rfl

@[simp] theorem State.leaveFifo_cs (i : SlotId) (s : State) :
    (State.leaveFifo i s).cs = s.cs := by
  unfold State.leaveFifo
  split <;> rfl

@[simp] theorem State.leaveFifo_hm (i : SlotId) (s : State) :
    (State.leaveFifo i s).hm = s.hm := by
  unfold State.leaveFifo
  split <;> rfl

@[simp] theorem State.leaveFifo_fl (i : SlotId) (s : State) :
    (State.leaveFifo i s).fl = s.fl := by
  unfold State.leaveFifo
  split <;> rfl

@[simp] theorem State.leaveFifo_now (i : SlotId) (s : State) :
    (State.leaveFifo i s).now = s.now := by
  unfold State.leaveFifo
  split <;> rfl

@[simp] theorem State.leaveFifo_bus (i : SlotId) (s : State) :
    (State.leaveFifo i s).bus = s.bus := by
  unfold State.leaveFifo
  split <;> rfl

@[simp] theorem State.leaveFifo_pending (i : SlotId) (s : State) :
    (State.leaveFifo i s).pending = s.pending := by
  unfold State.leaveFifo
  split <;> rfl

/-! ### State.noteUncertain -/

@[simp] theorem State.noteUncertain_hqi (i : SlotId) (x : Status) (s : State) :
    (State.noteUncertain i x s).hqi = s.hqi := by
  unfold State.noteUncertain
  split
  · rfl
  · split <;> rfl

@[simp] theorem State.noteUncertain_sc (i : SlotId) (x : Status) (s : State) :
    (State.noteUncertain i x s).sc = s.sc := by
  unfold State.noteUncertain
  split
  · rfl
  · split <;> rfl

@[simp] theorem State.noteUncertain_lc (i : SlotId) (x : Status) (s : State) :
    (State.noteUncertain i x s).lc = s.lc := by
  unfold State.noteUncertain
  split
  · rfl
  · split <;> rfl

@[simp] theorem State.noteUncertain_cs (i : SlotId) (x : Status) (s : State) :
    (State.noteUncertain i x s).cs = s.cs := by
  unfold State.noteUncertain
  split
  · rfl
  · split <;> rfl

@[simp] theorem State.noteUncertain_tt (i : SlotId) (x : Status) (s : State) :
    (State.noteUncertain i x s).tt = s.tt := by
  unfold State.noteUncertain
  split
  · rfl
  · split <;> rfl

@[simp] theorem State.noteUncertain_hm (i : SlotId) (x : Status) (s : State) :
    (State.noteUncertain i x s).hm = s.hm := by
  unfold State.noteUncertain
  split
  · rfl
  · split <;> rfl

@[simp] theorem State.noteUncertain_fl (i : SlotId) (x : Status) (s : State) :
    (State.noteUncertain i x s).fl = s.fl := by
  unfold State.noteUncertain
  split
  · rfl
  · split <;> rfl

@[simp] theorem State.noteUncertain_now (i : SlotId) (x : Status) (s : State) :
    (State.noteUncertain i x s).now = s.now := by
  unfold State.noteUncertain
  split
  · rfl
  · split <;> rfl

@[simp] theorem State.noteUncertain_bus (i : SlotId) (x : Status) (s : State) :
    (State.noteUncertain i x s).bus = s.bus := by
  unfold State.noteUncertain
  split
  · rfl
  · split <;> rfl

@[simp] theorem State.noteUncertain_pending (i : SlotId) (x : Status) (s : State) :
    (State.noteUncertain i x s).pending = s.pending := by
  unfold State.noteUncertain
  split
  · rfl
  · split <;> rfl

/-! ### State.slotDone -/

@[simp] theorem State.slotDone_hqi (i : SlotId) (x : Status) (d : List Byte) (n : Nat) (s : State) :
    (State.slotDone i x d n s).hqi = s.hqi := by simp [State.slotDone]

@[simp] theorem State.slotDone_sc (i : SlotId) (x : Status) (d : List Byte) (n : Nat) (s : State) :
    (State.slotDone i x d n s).sc = s.sc := by simp [State.slotDone]

@[simp] theorem State.slotDone_lc (i : SlotId) (x : Status) (d : List Byte) (n : Nat) (s : State) :
    (State.slotDone i x d n s).lc = s.lc := by simp [State.slotDone]

@[simp] theorem State.slotDone_cs (i : SlotId) (x : Status) (d : List Byte) (n : Nat) (s : State) :
    (State.slotDone i x d n s).cs = s.cs := by simp [State.slotDone]

@[simp] theorem State.slotDone_hm (i : SlotId) (x : Status) (d : List Byte) (n : Nat) (s : State) :
    (State.slotDone i x d n s).hm = s.hm := by simp [State.slotDone]

@[simp] theorem State.slotDone_fl (i : SlotId) (x : Status) (d : List Byte) (n : Nat) (s : State) :
    (State.slotDone i x d n s).fl = s.fl := by simp [State.slotDone]

@[simp] theorem State.slotDone_now (i : SlotId) (x : Status) (d : List Byte) (n : Nat) (s : State) :
    (State.slotDone i x d n s).now = s.now := by simp [State.slotDone]

@[simp] theorem State.slotDone_bus (i : SlotId) (x : Status) (d : List Byte) (n : Nat) (s : State) :
    (State.slotDone i x d n s).bus = s.bus := by simp [State.slotDone]

@[simp] theorem State.slotDone_pending (i : SlotId) (x : Status) (d : List Byte) (n : Nat) (s : State) :
    (State.slotDone i x d n s).pending = s.pending := by simp [State.slotDone]

/-! ### State.endSlot -/

@[simp] theorem State.endSlot_hqi (i : SlotId) (x : Status) (s : State) :
    (State.endSlot i x s).hqi = s.hqi := by simp [State.endSlot]

@[simp] theorem State.endSlot_sc (i : SlotId) (x : Status) (s : State) :
    (State.endSlot i x s).sc = s.sc := by simp [State.endSlot]

@[simp] theorem State.endSlot_lc (i : SlotId) (x : Status) (s : State) :
    (State.endSlot i x s).lc = s.lc := by simp [State.endSlot]

@[simp] theorem State.endSlot_cs (i : SlotId) (x : Status) (s : State) :
    (State.endSlot i x s).cs = s.cs := by simp [State.endSlot]

@[simp] theorem State.endSlot_hm (i : SlotId) (x : Status) (s : State) :
    (State.endSlot i x s).hm = s.hm := by simp [State.endSlot]

@[simp] theorem State.endSlot_fl (i : SlotId) (x : Status) (s : State) :
    (State.endSlot i x s).fl = s.fl := by simp [State.endSlot]

@[simp] theorem State.endSlot_now (i : SlotId) (x : Status) (s : State) :
    (State.endSlot i x s).now = s.now := by simp [State.endSlot]

@[simp] theorem State.endSlot_bus (i : SlotId) (x : Status) (s : State) :
    (State.endSlot i x s).bus = s.bus := by simp [State.endSlot]

@[simp] theorem State.endSlot_pending (i : SlotId) (x : Status) (s : State) :
    (State.endSlot i x s).pending = s.pending := by simp [State.endSlot]

/-! ### State.countUnexpected -/

@[simp] theorem State.countUnexpected_hqi (s : State) :
    (State.countUnexpected s).hqi = s.hqi := by
  unfold State.countUnexpected
  simp only []
  split <;> rfl

@[simp] theorem State.countUnexpected_sc (s : State) :
    (State.countUnexpected s).sc = s.sc := by
  unfold State.countUnexpected
  simp only []
  split <;> rfl

@[simp] theorem State.countUnexpected_st (s : State) :
    (State.countUnexpected s).st = s.st := by
  unfold State.countUnexpected
  simp only []
  split <;> rfl

@[simp] theorem State.countUnexpected_cs (s : State) :
    (State.countUnexpected s).cs = s.cs := by
  unfold State.countUnexpected
  simp only []
  split <;> rfl

@[simp] theorem State.countUnexpected_tt (s : State) :
    (State.countUnexpected s).tt = s.tt := by
  unfold State.countUnexpected
  simp only []
  split <;> rfl

@[simp] theorem State.countUnexpected_hm (s : State) :
    (State.countUnexpected s).hm = s.hm := by
  unfold State.countUnexpected
  simp only []
  split <;> rfl

@[simp] theorem State.countUnexpected_now (s : State) :
    (State.countUnexpected s).now = s.now := by
  unfold State.countUnexpected
  simp only []
  split <;> rfl

@[simp] theorem State.countUnexpected_bus (s : State) :
    (State.countUnexpected s).bus = s.bus := by
  unfold State.countUnexpected
  simp only []
  split <;> rfl

@[simp] theorem State.countUnexpected_pending (s : State) :
    (State.countUnexpected s).pending = s.pending := by
  unfold State.countUnexpected
  simp only []
  split <;> rfl

/-! ### State.handOver -/

@[simp] theorem State.handOver_hqi (x : InHand) (q : SendRequest) (s : State) :
    (State.handOver x q s).hqi = s.hqi := rfl

@[simp] theorem State.handOver_sc (x : InHand) (q : SendRequest) (s : State) :
    (State.handOver x q s).sc = s.sc := rfl

@[simp] theorem State.handOver_st (x : InHand) (q : SendRequest) (s : State) :
    (State.handOver x q s).st = s.st := rfl

@[simp] theorem State.handOver_tt (x : InHand) (q : SendRequest) (s : State) :
    (State.handOver x q s).tt = s.tt := rfl

@[simp] theorem State.handOver_hm (x : InHand) (q : SendRequest) (s : State) :
    (State.handOver x q s).hm = s.hm := rfl

@[simp] theorem State.handOver_fl (x : InHand) (q : SendRequest) (s : State) :
    (State.handOver x q s).fl = s.fl := rfl

@[simp] theorem State.handOver_now (x : InHand) (q : SendRequest) (s : State) :
    (State.handOver x q s).now = s.now := rfl

@[simp] theorem State.handOver_bus (x : InHand) (q : SendRequest) (s : State) :
    (State.handOver x q s).bus = s.bus := rfl

@[simp] theorem State.handOver_pending (x : InHand) (q : SendRequest) (s : State) :
    (State.handOver x q s).pending = s.pending := rfl

/-! ### State.answerAbort -/

@[simp] theorem State.answerAbort_hqi (b : Bool) (n : Nat) (x : Status) (s : State) :
    (State.answerAbort b n x s).hqi = s.hqi := by
  unfold State.answerAbort
  split <;> simp

@[simp] theorem State.answerAbort_st (b : Bool) (n : Nat) (x : Status) (s : State) :
    (State.answerAbort b n x s).st = s.st := by
  unfold State.answerAbort
  split <;> simp

@[simp] theorem State.answerAbort_lc (b : Bool) (n : Nat) (x : Status) (s : State) :
    (State.answerAbort b n x s).lc = s.lc := by
  unfold State.answerAbort
  split <;> simp

@[simp] theorem State.answerAbort_cs (b : Bool) (n : Nat) (x : Status) (s : State) :
    (State.answerAbort b n x s).cs = s.cs := by
  unfold State.answerAbort
  split <;> simp

@[simp] theorem State.answerAbort_tt (b : Bool) (n : Nat) (x : Status) (s : State) :
    (State.answerAbort b n x s).tt = s.tt := by
  unfold State.answerAbort
  split <;> simp

@[simp] theorem State.answerAbort_hm (b : Bool) (n : Nat) (x : Status) (s : State) :
    (State.answerAbort b n x s).hm = s.hm := by
  unfold State.answerAbort
  split <;> simp

@[simp] theorem State.answerAbort_fl (b : Bool) (n : Nat) (x : Status) (s : State) :
    (State.answerAbort b n x s).fl = s.fl := by
  unfold State.answerAbort
  split <;> simp

@[simp] theorem State.answerAbort_now (b : Bool) (n : Nat) (x : Status) (s : State) :
    (State.answerAbort b n x s).now = s.now := by
  unfold State.answerAbort
  split <;> simp

@[simp] theorem State.answerAbort_bus (b : Bool) (n : Nat) (x : Status) (s : State) :
    (State.answerAbort b n x s).bus = s.bus := by
  unfold State.answerAbort
  split <;> simp

@[simp] theorem State.answerAbort_pending (b : Bool) (n : Nat) (x : Status) (s : State) :
    (State.answerAbort b n x s).pending = s.pending := by
  unfold State.answerAbort
  split <;> simp

/-! ### State.freeSlot -/

@[simp] theorem State.freeSlot_hqi (i : SlotId) (s : State) :
    (State.freeSlot i s).hqi = s.hqi := rfl

@[simp] theorem State.freeSlot_sc (i : SlotId) (s : State) :
    (State.freeSlot i s).sc = s.sc := rfl

@[simp] theorem State.freeSlot_st (i : SlotId) (s : State) :
    (State.freeSlot i s).st = s.st := rfl

@[simp] theorem State.freeSlot_lc (i : SlotId) (s : State) :
    (State.freeSlot i s).lc = s.lc := rfl

@[simp] theorem State.freeSlot_cs (i : SlotId) (s : State) :
    (State.freeSlot i s).cs = s.cs := rfl

@[simp] theorem State.freeSlot_hm (i : SlotId) (s : State) :
    (State.freeSlot i s).hm = s.hm := rfl

@[simp] theorem State.freeSlot_fl (i : SlotId) (s : State) :
    (State.freeSlot i s).fl = s.fl := rfl

@[simp] theorem State.freeSlot_now (i : SlotId) (s : State) :
    (State.freeSlot i s).now = s.now := rfl

@[simp] theorem State.freeSlot_bus (i : SlotId) (s : State) :
    (State.freeSlot i s).bus = s.bus := rfl

@[simp] theorem State.freeSlot_pending (i : SlotId) (s : State) :
    (State.freeSlot i s).pending = s.pending := rfl

/-! ### State.clearSafe -/

@[simp] theorem State.clearSafe_hqi (s : State) :
    (State.clearSafe s).hqi = s.hqi := rfl

@[simp] theorem State.clearSafe_sc (s : State) :
    (State.clearSafe s).sc = s.sc := rfl

@[simp] theorem State.clearSafe_st (s : State) :
    (State.clearSafe s).st = s.st := rfl

@[simp] theorem State.clearSafe_lc (s : State) :
    (State.clearSafe s).lc = s.lc := rfl

@[simp] theorem State.clearSafe_cs (s : State) :
    (State.clearSafe s).cs = s.cs := rfl

@[simp] theorem State.clearSafe_tt (s : State) :
    (State.clearSafe s).tt = s.tt := rfl

@[simp] theorem State.clearSafe_now (s : State) :
    (State.clearSafe s).now = s.now := rfl

@[simp] theorem State.clearSafe_bus (s : State) :
    (State.clearSafe s).bus = s.bus := rfl

@[simp] theorem State.clearSafe_pending (s : State) :
    (State.clearSafe s).pending = s.pending := rfl

end Sys2Proof.Machine
end

