-- ==== Sys2Proof/Laws/Stations.lean ====
section
/-! SUPPORT. The operations on a station entry as one change of that entry: what `moveTo`, the end of a
confirm and the end of a station's causes come to, for one station and along a list of stations. -/

namespace Sys2Proof.Machine

/-! ## One entry -/

theorem State.updStation_eq_withStation (s : State) (k : StationId) (f : Station → Station) :
    s.updStation k f = s.withStation k (f (s.station k)) := rfl

theorem State.withStation_station (s : State) (k : StationId) (e : Station) :
    (s.withStation k e).station k = e := by
  simp [State.withStation, State.station]

theorem State.withStation_station_ne (s : State) {k j : StationId} (e : Station) (h : j ≠ k) :
    (s.withStation k e).station j = s.station j := by
  have h' : k.val ≠ j.val := fun e => h (Fin.ext e.symm)
  simp [State.withStation, State.station, h']

theorem State.withStation_withStation (s : State) (k : StationId) (e e' : Station) :
    (s.withStation k e).withStation k e' = s.withStation k e' := by
  simp [State.withStation]

theorem State.withStation_self (s : State) (k : StationId) : s.withStation k (s.station k) = s := by
  simp [State.withStation, State.station]

theorem Station.configured_iff (e : Station) : e.configured = true ↔ e.state ≠ .unused := by
  simp [Station.configured]

theorem Station.inService_iff (e : Station) :
    e.inService = true ↔ e.state = .active ∨ e.state = .degraded := by
  simp [Station.inService]

theorem Station.configured_of_inService {e : Station} (h : e.inService = true) : e.configured = true := by
  rw [Station.inService_iff] at h
  rw [Station.configured_iff]
  rcases h with h | h <;> simp [h]

/-- R48: a move to a state other than UNUSED sets the state and the state report. -/
theorem Station.moveTo_eq_with (stateEvents : Bool) (dest : StationState) (e : Station)
    (h : dest ≠ .unused) :
    e.moveTo stateEvents dest = { e with state := dest, report := e.reportAfter stateEvents dest } := by
  unfold Station.moveTo Station.reportAfter
  by_cases hd : e.state = dest
  · subst hd; simp
  · cases stateEvents <;> simp [hd, h]

/-- A state report depends on the entry's state and report alone. -/
theorem Station.reportAfter_congr {a b : Station} (hs : a.state = b.state) (hr : a.report = b.report)
    (stateEvents : Bool) (dest : StationState) :
    a.reportAfter stateEvents dest = b.reportAfter stateEvents dest := by
  simp only [Station.reportAfter, hs, hr]

/-! ## Confirms -/

theorem Station.confirmEnded_of_none {e : Station} (h : e.confirm = none) (status : Status) :
    e.confirmEnded status = e := by simp only [Station.confirmEnded, h]

/-- R42, R45: the entry that returns to UNUSED, with its confirm ended. -/
theorem Station.vacate_confirmEnded (e : Station) (status : Status) :
    (e.confirmEnded status).vacate = { e.confirmEnded status with
      state := .unused
      restartTimer := none
      change := { e.change with
        pending := false
        bits := List.replicate e.inputSize 0
        coalesce := 0 }
      report := { e.report with pending := false, transitions := 0 }
      inputsValid := false
      missCount := 0
      removePending := false } := by
  unfold Station.confirmEnded
  split <;> rfl

/-- R23, R45: the entry of a removed station, with its confirm ended. -/
theorem Station.emptied_vacate_confirmEnded (e : Station) (status : Status) :
    (e.confirmEnded status).vacate.emptied = { e.confirmEnded status with
      state := .unused
      inputSize := 0
      outputSize := 0
      outputImage := []
      safeImage := []
      inputImage := []
      lastReported := []
      watchMask := []
      restartTimer := none
      change := { e.change with pending := false, bits := [], coalesce := 0 }
      report := { e.report with pending := false, transitions := 0 }
      inputsValid := false
      missCount := 0
      removePending := false } := by
  unfold Station.confirmEnded
  split <;> rfl

/-- R80: the end of a pending confirm is a change of the entry and of the transfer ready list. -/
theorem State.endConfirm_eq (s : State) (k : StationId) (status : Status) :
    s.endConfirm k status = { s.withStation k ((s.station k).confirmEnded status) with
      hqi := { s.hqi with readyList := s.hqi.readyList ++ s.confirmEntries [k] } } := by
  unfold State.endConfirm
  cases h : (s.station k).confirm with
  | none =>
    have e1 : (s.station k).confirmEnded status = s.station k := Station.confirmEnded_of_none h status
    have e2 : s.confirmEntries [k] = [] := by simp [State.confirmEntries, h]
    rw [e1, e2, State.withStation_self, List.append_nil]
  | some c =>
    have e1 : (s.station k).confirmEnded status
        = { s.station k with
            confirm := none
            results := (s.station k).results ++ [{ tag := c.tag, index := c.index, status := status }] } := by
      simp only [Station.confirmEnded, h]
    have e2 : s.confirmEntries [k] = [.confirm k] := by simp [State.confirmEntries, h]
    rw [e1, e2]
    rfl

/-! ## Causes -/

theorem State.endStationCauses_eq (s : State) (k : StationId) :
    s.endStationCauses k = { s with fl := s.fl.endCauses (stationCauses k) } := rfl

theorem FaultList.endCauses_append (f : FaultList) (a b : List (FaultKind × Nat)) :
    f.endCauses (a ++ b) = (f.endCauses a).endCauses b := by
  simp [FaultList.endCauses, List.foldl_append]

/-! ## Walks over the stations -/

theorem State.confirmEntries_append (s : State) (a b : List StationId) :
    s.confirmEntries (a ++ b) = s.confirmEntries a ++ s.confirmEntries b := by
  simp [State.confirmEntries]

theorem State.confirmEntries_congr {s t : State} {ks : List StationId}
    (h : ∀ k ∈ ks, (t.station k).confirm = (s.station k).confirm) :
    t.confirmEntries ks = s.confirmEntries ks := by
  unfold State.confirmEntries
  congr 1
  apply List.filter_congr
  intro k hk
  rw [h k hk]

/-- A state reached by a walk that changes station entries, the transfer ready list and the fault list. -/
theorem State.ext_of_parts {s t : State} (hs : t.st.stateEvents = s.st.stateEvents)
    (he : ∀ k, t.station k = s.station k) (hh : t.hqi = s.hqi) (hc : t.sc = s.sc) (hl : t.lc = s.lc)
    (hcs : t.cs = s.cs) (ht : t.tt = s.tt) (hm : t.hm = s.hm) (hf : t.fl = s.fl) (hn : t.now = s.now)
    (hb : t.bus = s.bus) (hp : t.pending = s.pending) : t = s := by
  obtain ⟨a1, a2, ⟨a3, a4⟩, a5, a6, a7, a8, a9, a10, a11, a12⟩ := s
  obtain ⟨b1, b2, ⟨b3, b4⟩, b5, b6, b7, b8, b9, b10, b11, b12⟩ := t
  simp only at *
  subst_vars
  have : b4 = a4 := by
    apply Vector.ext
    intro i hi
    exact he ⟨i, hi⟩
  rw [this]

/-- SAFE entry's walk: the confirms of the stations `ks` end, in order (R91). -/
theorem State.foldl_endConfirmWith (status : Status) (ks : List StationId) (h : ks.Nodup) (s : State) :
    let t := ks.foldl (State.endConfirmWith status) s
    t = { s with st := t.st, hqi := { s.hqi with readyList := s.hqi.readyList ++ s.confirmEntries ks } }
      ∧ t.st.stateEvents = s.st.stateEvents
      ∧ ∀ k, t.station k = if k ∈ ks then (s.station k).confirmEnded status else s.station k := by
  induction ks generalizing s with
  | nil => simp [State.confirmEntries]
  | cons k rest ih =>
    obtain ⟨hk, hr⟩ := List.nodup_cons.1 h
    simp only [List.foldl_cons]
    obtain ⟨h1, h2, h3⟩ := ih hr (s.endConfirmWith status k)
    have e : s.endConfirmWith status k = { s.withStation k ((s.station k).confirmEnded status) with
      hqi := { s.hqi with readyList := s.hqi.readyList ++ s.confirmEntries [k] } } := s.endConfirm_eq k status
    have hst : ∀ j, j ≠ k → (s.endConfirmWith status k).station j = s.station j := by
      intro j hj; rw [e]; exact s.withStation_station_ne _ hj
    have hsk : (s.endConfirmWith status k).station k = (s.station k).confirmEnded status := by
      rw [e]; exact s.withStation_station _ _
    refine ⟨?_, ?_, ?_⟩
    · rw [h1]
      have hc : (s.endConfirmWith status k).confirmEntries rest = s.confirmEntries rest :=
        State.confirmEntries_congr fun j hj => by rw [hst j (fun e => hk (e ▸ hj))]
      rw [hc, show k :: rest = [k] ++ rest from rfl, State.confirmEntries_append, ← List.append_assoc, e]
      rfl
    · rw [h2, e]; rfl
    · intro j
      rw [h3 j]
      by_cases hj : j = k
      · subst hj; simp [hk, hsk]
      · simp [hj, hst j hj]

/-- R41 at one station that is configured. -/
theorem State.stopStation_eq (s : State) (k : StationId) (h : (s.station k).state ≠ .unused) :
    s.stopStation k = { s.withStation k { (s.station k).confirmEnded (.ended .cyclesStopped) with
        state := .probing
        report := (s.station k).reportAfter s.st.stateEvents .probing
        restartTimer := none
        missCount := 0
        inputsValid := false } with
      fl := s.fl.endCauses (stationCauses k)
      hqi := { s.hqi with readyList := s.hqi.readyList ++ s.confirmEntries [k] } } := by
  unfold State.stopStation
  rw [if_pos ((s.station k).configured_iff.2 h)]
  simp only [State.moveStation, State.updStation_eq_withStation, State.withStation_station,
    State.withStation_withStation, Station.moveTo_eq_with _ _ _ (by decide : StationState.probing ≠ .unused),
    State.endStationCauses_eq, State.endConfirm_eq]
  have hc : ∀ (e : Station), (s.station k).confirm = e.confirm →
      State.confirmEntries { s.withStation k e with fl := s.fl.endCauses (stationCauses k) } [k]
        = s.confirmEntries [k] := by
    intro e he
    apply State.confirmEntries_congr
    intro j hj
    simp only [List.mem_singleton] at hj
    subst hj
    show ((s.withStation j e).station j).confirm = _
    rw [State.withStation_station, he]
  have hs : ∀ (e : Station) (f : FaultList),
      State.station { s.withStation k e with fl := f } k = e := fun e f => s.withStation_station k e
  have hw : ∀ (e e' : Station) (f : FaultList),
      State.withStation { s.withStation k e with fl := f } k e' = { s.withStation k e' with fl := f } := by
    intro e e' f; simp [State.withStation]
  have hf : ∀ e, (s.withStation k e).fl = s.fl := fun _ => rfl
  rw [hf, hs, hw, hc]
  · cases h : (s.station k).confirm <;> simp only [Station.confirmEnded, h] <;> rfl
  · rfl

/-- R41: the walk of a stop over the stations `ks`. -/
theorem State.foldl_stopStation (ks : List StationId) (h : ks.Nodup) (s : State) :
    let on := ks.filter fun k => (s.station k).state ≠ .unused
    let t := ks.foldl State.stopStation s
    t = { s with
        st := t.st
        fl := s.fl.endCauses (on.flatMap stationCauses)
        hqi := { s.hqi with readyList := s.hqi.readyList ++ s.confirmEntries on } }
      ∧ t.st.stateEvents = s.st.stateEvents
      ∧ ∀ k, t.station k = if k ∈ ks ∧ (s.station k).state ≠ .unused then
          { (s.station k).confirmEnded (.ended .cyclesStopped) with
            state := .probing
            report := (s.station k).reportAfter s.st.stateEvents .probing
            restartTimer := none
            missCount := 0
            inputsValid := false }
        else s.station k := by
  induction ks generalizing s with
  | nil => simp [State.confirmEntries, FaultList.endCauses]
  | cons k rest ih =>
    obtain ⟨hk, hr⟩ := List.nodup_cons.1 h
    by_cases hu : (s.station k).state = .unused
    · have e : s.stopStation k = s := by simp [State.stopStation, Station.configured, hu]
      have hf : (k :: rest).filter (fun k => decide ((s.station k).state ≠ .unused))
          = rest.filter (fun k => decide ((s.station k).state ≠ .unused)) := by simp [hu]
      simp only [List.foldl_cons, e, hf]
      obtain ⟨h1, h2, h3⟩ := ih hr s
      refine ⟨h1, h2, fun j => ?_⟩
      rw [h3 j]
      by_cases hj : j = k
      · subst hj; simp [hk, hu]
      · simp [hj]
    · have e := s.stopStation_eq k hu
      have hst : ∀ j, j ≠ k → (s.stopStation k).station j = s.station j := by
        intro j hj; rw [e]; exact s.withStation_station_ne _ hj
      have hsk : (s.stopStation k).station k = { (s.station k).confirmEnded (.ended .cyclesStopped) with
          state := .probing
          report := (s.station k).reportAfter s.st.stateEvents .probing
          restartTimer := none
          missCount := 0
          inputsValid := false } := by
        rw [e]; exact s.withStation_station _ _
      have hse : (s.stopStation k).st.stateEvents = s.st.stateEvents := by rw [e]; rfl
      have hon : rest.filter (fun j => decide (((s.stopStation k).station j).state ≠ .unused))
          = rest.filter (fun j => decide ((s.station j).state ≠ .unused)) := by
        apply List.filter_congr
        intro j hj
        rw [hst j (fun e => hk (e ▸ hj))]
      obtain ⟨h1, h2, h3⟩ := ih hr (s.stopStation k)
      simp only [hon] at h1
      have hf : (k :: rest).filter (fun k => decide ((s.station k).state ≠ .unused))
          = [k] ++ rest.filter (fun k => decide ((s.station k).state ≠ .unused)) := by simp [hu]
      simp only [List.foldl_cons, hf]
      refine ⟨?_, ?_, fun j => ?_⟩
      · rw [h1]
        have hc : ∀ l : List StationId, (∀ j ∈ l, j ∈ rest) →
            (s.stopStation k).confirmEntries l = s.confirmEntries l := fun l hl =>
          State.confirmEntries_congr fun j hj => by rw [hst j (fun e => hk (e ▸ hl j hj))]
        rw [hc _ (fun j hj => List.mem_of_mem_filter hj), State.confirmEntries_append, List.flatMap_append,
          FaultList.endCauses_append, ← List.append_assoc, e]
        simp [State.withStation]
      · rw [h2, hse]
      · rw [h3 j, hse]
        by_cases hj : j = k
        · subst hj; simp [hk, hsk, hu]
        · simp [hj, hst j hj]

/-- R42 at one station that is configured. -/
theorem State.closeStation_eq (s : State) (k : StationId) (h : (s.station k).state ≠ .unused) :
    s.closeStation k = { s.withStation k ((s.station k).confirmEnded (.ended .sessionClosed)).vacate with
      hqi := { s.hqi with readyList := s.hqi.readyList ++ s.confirmEntries [k] } } := by
  unfold State.closeStation
  rw [if_pos ((s.station k).configured_iff.2 h), State.endConfirm_eq]
  simp [State.updStation, State.withStation, State.station]

/-- R42: the walk of a close over the stations `ks`. -/
theorem State.foldl_closeStation (ks : List StationId) (h : ks.Nodup) (s : State) :
    let on := ks.filter fun k => (s.station k).state ≠ .unused
    let t := ks.foldl State.closeStation s
    t = { s with
        st := t.st
        hqi := { s.hqi with readyList := s.hqi.readyList ++ s.confirmEntries on } }
      ∧ t.st.stateEvents = s.st.stateEvents
      ∧ ∀ k, t.station k = if k ∈ ks ∧ (s.station k).state ≠ .unused then
          ((s.station k).confirmEnded (.ended .sessionClosed)).vacate
        else s.station k := by
  induction ks generalizing s with
  | nil => simp [State.confirmEntries]
  | cons k rest ih =>
    obtain ⟨hk, hr⟩ := List.nodup_cons.1 h
    by_cases hu : (s.station k).state = .unused
    · have e : s.closeStation k = s := by simp [State.closeStation, Station.configured, hu]
      have hf : (k :: rest).filter (fun k => decide ((s.station k).state ≠ .unused))
          = rest.filter (fun k => decide ((s.station k).state ≠ .unused)) := by simp [hu]
      simp only [List.foldl_cons, e, hf]
      obtain ⟨h1, h2, h3⟩ := ih hr s
      refine ⟨h1, h2, fun j => ?_⟩
      rw [h3 j]
      by_cases hj : j = k
      · subst hj; simp [hk, hu]
      · simp [hj]
    · have e := s.closeStation_eq k hu
      have hst : ∀ j, j ≠ k → (s.closeStation k).station j = s.station j := by
        intro j hj; rw [e]; exact s.withStation_station_ne _ hj
      have hsk : (s.closeStation k).station k
          = ((s.station k).confirmEnded (.ended .sessionClosed)).vacate := by
        rw [e]; exact s.withStation_station _ _
      have hse : (s.closeStation k).st.stateEvents = s.st.stateEvents := by rw [e]; rfl
      have hon : rest.filter (fun j => decide (((s.closeStation k).station j).state ≠ .unused))
          = rest.filter (fun j => decide ((s.station j).state ≠ .unused)) := by
        apply List.filter_congr
        intro j hj
        rw [hst j (fun e => hk (e ▸ hj))]
      obtain ⟨h1, h2, h3⟩ := ih hr (s.closeStation k)
      simp only [hon] at h1
      have hf : (k :: rest).filter (fun k => decide ((s.station k).state ≠ .unused))
          = [k] ++ rest.filter (fun k => decide ((s.station k).state ≠ .unused)) := by simp [hu]
      simp only [List.foldl_cons, hf]
      refine ⟨?_, ?_, fun j => ?_⟩
      · rw [h1]
        have hc : ∀ l : List StationId, (∀ j ∈ l, j ∈ rest) →
            (s.closeStation k).confirmEntries l = s.confirmEntries l := fun l hl =>
          State.confirmEntries_congr fun j hj => by rw [hst j (fun e => hk (e ▸ hl j hj))]
        rw [hc _ (fun j hj => List.mem_of_mem_filter hj), State.confirmEntries_append, ← List.append_assoc, e]
        simp [State.withStation]
      · rw [h2, hse]
      · rw [h3 j]
        by_cases hj : j = k
        · subst hj; simp [hk, hsk, hu]
        · simp [hj, hst j hj]

end Sys2Proof.Machine
end

