-- ==== Sys2Proof/Laws/Slots.lean ====
section
/-! SUPPORT. The end of a slot as one change of the state, and the walks that end the waiting slots of one
station or of all of them (R110 to R113, R117). -/

namespace Sys2Proof.Machine

/-! ## One slot -/

theorem State.withSlot_slot (s : State) (i : SlotId) (x : Slot) : (s.withSlot i x).slot i = x := by
  simp [State.withSlot, State.slot]

theorem State.withSlot_slot_ne (s : State) {i j : SlotId} (x : Slot) (h : j ≠ i) :
    (s.withSlot i x).slot j = s.slot j := by
  have h' : i.val ≠ j.val := fun e => h (Fin.ext e.symm)
  simp [State.withSlot, State.slot, h']

theorem State.updSlot_eq_withSlot (s : State) (i : SlotId) (f : Slot → Slot) :
    s.updSlot i f = s.withSlot i (f (s.slot i)) := rfl

theorem Slot.finish_eq_doneWith (x : Slot) (status : Status) (data : List Byte) (n : Nat) :
    x.finish status data n = x.doneWith status data n := rfl

theorem Slot.waiting_iff (x : Slot) : x.waiting = true ↔ x.state = .queued ∨ x.state = .backoff := by
  simp [Slot.waiting]

theorem Slot.doneWith_waiting (x : Slot) (status : Status) (data : List Byte) (n : Nat) :
    (x.doneWith status data n).waiting = false := rfl

theorem Slot.uncertainEnd_of_status {status : Status} (h : status.uncertain = false) (x : Slot) :
    x.uncertainEnd status = false := by simp [Slot.uncertainEnd, h]

theorem State.entries_set_self (s : State) (k : StationId) :
    s.st.entries.set k (s.station k) = s.st.entries := by
  simp [State.station]

/-- R111: all that the end of a slot does, for a slot of station `k`. -/
theorem State.slotDone_eq (s : State) (i : SlotId) (k : StationId) (h : (s.slot i).station = some k)
    (status : Status) (data : List Byte) (n : Nat) :
    s.slotDone i status data n = { s with
      st := { s.st with entries := s.st.entries.set k { s.station k with
        resync := (s.station k).resync || (s.slot i).uncertainEnd status } }
      tt := { s.tt with
        slots := s.tt.slots.set i ((s.slot i).doneWith status data n)
        fifos := s.tt.fifos.set k ((s.fifo k).filter (· ≠ i))
        doneQueue := s.tt.doneQueue ++ [i] } } := by
  cases hu : (s.slot i).uncertainEnd status with
  | false =>
    have e : s.noteUncertain i status = s := by unfold State.noteUncertain; simp only [h, hu]; rfl
    have e2 : ({ s.station k with resync := (s.station k).resync || false } : Station)
        = s.station k := by rw [Bool.or_false]
    rw [e2, s.entries_set_self k]
    unfold State.slotDone
    rw [e]
    unfold State.leaveFifo
    simp only [h]
    rfl
  | true =>
    have e : s.noteUncertain i status = s.updStation k (fun e => { e with resync := true }) := by
      unfold State.noteUncertain; simp only [h, hu]; rfl
    have e3 : ∀ f, ((s.updStation k f).slot i).station = some k := fun _ => h
    rw [Bool.or_true]
    unfold State.slotDone
    rw [e]
    unfold State.leaveFifo
    simp only [e3]
    rfl

/-- The end of a slot with a status that no doubt can make uncertain leaves the stations alone. -/
theorem State.slotDone_of_certain (s : State) (i : SlotId) (k : StationId)
    (h : (s.slot i).station = some k) {status : Status} (hu : status.uncertain = false)
    (data : List Byte) (n : Nat) :
    s.slotDone i status data n = { s with tt := { s.tt with
        slots := s.tt.slots.set i ((s.slot i).doneWith status data n)
        fifos := s.tt.fifos.set k ((s.fifo k).filter (· ≠ i))
        doneQueue := s.tt.doneQueue ++ [i] } } := by
  have e : ({ s.station k with resync := (s.station k).resync || false } : Station)
      = s.station k := by rw [Bool.or_false]
  rw [s.slotDone_eq i k h, Slot.uncertainEnd_of_status hu, e, s.entries_set_self k]

/-! ## Walks -/

/-- The FIFOs hold the slots of their own station, each once, the waiting ones among them all. -/
structure TransactionTable.FifosMatch (t : TransactionTable) : Prop where
  nodup : ∀ k : StationId, (t.fifos[k]).Nodup
  station : ∀ (k : StationId) (i : SlotId), i ∈ t.fifos[k] → (t.slots[i]).station = some k
  waiting : ∀ (k : StationId) (i : SlotId), (t.slots[i]).waiting = true → (t.slots[i]).station = some k →
    i ∈ t.fifos[k]

theorem State.SlotsSound.fifosMatch {s : State} (h : s.SlotsSound) : s.tt.FifosMatch := by
  obtain ⟨h1, h2, h3, h4, h5, h6, h7⟩ := h
  refine ⟨fun k => ?_, fun k i hi => ?_, fun k i hw hs => ?_⟩
  · show (s.fifo k).Nodup
    rw [h6 k]; exact h1.filter _
  · have hi : i ∈ s.fifo k := hi
    rw [h6 k, List.mem_filter] at hi
    have := hi.2
    simp only [Bool.and_eq_true, decide_eq_true_eq] at this
    exact this.2
  · show i ∈ s.fifo k
    have hw : (s.slot i).waiting = true := hw
    have hs : (s.slot i).station = some k := hs
    rw [Slot.waiting_iff] at hw
    rw [h6 k, List.mem_filter]
    refine ⟨(h2 i).2 (by rcases hw with h | h <;> simp [h]), ?_⟩
    rcases hw with h | h <;> simp [h, hs, SlotState.unfinished]

/-- The walk that ends the waiting slots of a list, all of station `k`. -/
theorem State.foldl_endWaitingSlot (status : Status) (hu : status.uncertain = false) (k : StationId)
    (l : List SlotId) (hn : l.Nodup) (s : State) (hs : ∀ i ∈ l, (s.slot i).station = some k) :
    let t := l.foldl (State.endWaitingSlot status) s
    t = { s with tt := { s.tt with
        slots := t.tt.slots, fifos := t.tt.fifos, doneQueue := t.tt.doneQueue } }
      ∧ (∀ i, t.slot i = if i ∈ l ∧ (s.slot i).waiting = true then
          (s.slot i).doneWith status (s.slot i).data 0 else s.slot i)
      ∧ (∀ j, t.fifo j = if j = k then (s.fifo k).filter (fun i => !(decide (i ∈ l) && (s.slot i).waiting))
          else s.fifo j)
      ∧ t.tt.doneQueue = s.tt.doneQueue ++ l.filter (fun i => (s.slot i).waiting) := by
  induction l generalizing s with
  | nil =>
    refine ⟨rfl, fun i => by simp, fun j => ?_, by simp⟩
    by_cases h : j = k
    · subst h; simp
    · simp [h]
  | cons i rest ih =>
    obtain ⟨hi, hr⟩ := List.nodup_cons.1 hn
    simp only [List.foldl_cons]
    by_cases hw : (s.slot i).waiting = true
    · have hst := hs i (by simp)
      have e : s.endWaitingSlot status i = s.slotDone i status (s.slot i).data 0 := by
        unfold State.endWaitingSlot; rw [if_pos ((s.slot i).waiting_iff.1 hw)]; rfl
      have e2 := s.slotDone_of_certain i k hst hu (s.slot i).data 0
      rw [← e] at e2
      have hsi : (s.endWaitingSlot status i).slot i = (s.slot i).doneWith status (s.slot i).data 0 := by
        rw [e2]; simp [State.slot]
      have hsj : ∀ j, j ≠ i → (s.endWaitingSlot status i).slot j = s.slot j := by
        intro j hj
        have : i.val ≠ j.val := fun e => hj (Fin.ext e.symm)
        rw [e2]; simp [State.slot, this]
      have hfk : (s.endWaitingSlot status i).fifo k = (s.fifo k).filter (· ≠ i) := by
        rw [e2]; simp [State.fifo]
      have hfj : ∀ j, j ≠ k → (s.endWaitingSlot status i).fifo j = s.fifo j := by
        intro j hj
        have : k.val ≠ j.val := fun e => hj (Fin.ext e.symm)
        rw [e2]; simp [State.fifo, this]
      obtain ⟨h1, h2, h3, h4⟩ := ih hr (s.endWaitingSlot status i) (fun j hj => by
        rw [hsj j (fun e => hi (e ▸ hj))]; exact hs j (by simp [hj]))
      refine ⟨?_, fun j => ?_, fun j => ?_, ?_⟩
      · rw [h1, e2]
      · rw [h2 j]
        by_cases hj : j = i
        · subst hj; simp [hi, hsi, hw]
        · simp [hj, hsj j hj]
      · rw [h3 j]
        by_cases hj : j = k
        · subst hj
          simp only [hfk, List.filter_filter, if_true]
          apply List.filter_congr
          intro x _
          by_cases hx : x = i
          · subst hx; simp [hw]
          · simp [hx, hsj x hx]
        · simp [hj, hfj j hj]
      · rw [h4]
        have : (s.endWaitingSlot status i).tt.doneQueue = s.tt.doneQueue ++ [i] := by rw [e2]
        rw [this, List.filter_cons, if_pos hw, List.append_assoc]
        refine congrArg (fun l => s.tt.doneQueue ++ (i :: l)) ?_
        apply List.filter_congr
        intro x hx
        rw [hsj x (fun e => hi (e ▸ hx))]
    · have e : s.endWaitingSlot status i = s := by
        unfold State.endWaitingSlot; rw [if_neg (fun h => hw ((s.slot i).waiting_iff.2 h))]
      rw [e]
      obtain ⟨h1, h2, h3, h4⟩ := ih hr s (fun j hj => hs j (by simp [hj]))
      refine ⟨h1, fun j => ?_, fun j => ?_, ?_⟩
      · rw [h2 j]
        by_cases hj : j = i
        · subst hj; simp [hw]
        · simp [hj]
      · rw [h3 j]
        by_cases hj : j = k
        · subst hj
          simp only [if_true]
          apply List.filter_congr
          intro x _
          by_cases hx : x = i
          · subst hx; simp [hw]
          · simp [hx]
        · simp [hj]
      · rw [h4, List.filter_cons, if_neg hw]

/-- R113: the waiting slots of station `k` end in FIFO order. -/
theorem State.endStationSlots_ends (status : Status) (hu : status.uncertain = false) (k : StationId)
    (s : State) (hm : s.tt.FifosMatch) :
    let t := s.endStationSlots status k
    t = { s with tt := t.tt } ∧ TransactionTable.EndsWaiting s.tt t.tt [k] status := by
  obtain ⟨h1, h2, h3, h4⟩ := State.foldl_endWaitingSlot status hu k (s.fifo k) (hm.nodup k) s
    (fun i hi => hm.station k i hi)
  refine ⟨?_, fun i => ?_, fun j => ?_, ?_, ?_⟩
  · unfold State.endStationSlots; rw [h1]
  · refine (h2 i).trans ?_
    have : (i ∈ s.fifo k ∧ (s.slot i).waiting = true)
        ↔ (s.tt.slots[i].waiting = true ∧ ∃ j ∈ [k], s.tt.slots[i].station = some j) := by
      constructor
      · rintro ⟨a, b⟩; exact ⟨b, k, by simp, hm.station k i a⟩
      · rintro ⟨a, j, b, c⟩
        simp only [List.mem_singleton] at b
        subst b
        exact ⟨hm.waiting j i a c, a⟩
    by_cases hc : i ∈ s.fifo k ∧ (s.slot i).waiting = true
    · rw [if_pos hc, if_pos (this.1 hc)]; rfl
    · rw [if_neg hc, if_neg (fun h => hc (this.2 h))]; rfl
  · refine (h3 j).trans ?_
    by_cases hj : j = k
    · subst hj
      rw [if_pos rfl, if_pos (by simp)]
      apply List.filter_congr
      intro x hx
      have hx : x ∈ s.fifo j := hx
      simp [hx, State.slot]
    · rw [if_neg hj, if_neg (by simpa using hj)]; rfl
  · refine h4.trans ?_
    simp [State.fifo, State.slot]
  · have := congrArg State.tt h1
    exact this

theorem TransactionTable.EndsWaiting.fifosMatch {t u : TransactionTable} {ks : List StationId}
    {status : Status} (h : t.EndsWaiting u ks status) (hm : t.FifosMatch) : u.FifosMatch := by
  obtain ⟨h1, h2, h3, h4⟩ := h
  have hst : ∀ i : SlotId, u.slots[i].station = t.slots[i].station := by
    intro i; rw [h1 i]; split <;> rfl
  refine ⟨fun k => ?_, fun k i hi => ?_, fun k i hw hs => ?_⟩
  · rw [h2 k]; split
    · exact (hm.nodup k).filter _
    · exact hm.nodup k
  · rw [hst i]
    rw [h2 k] at hi
    split at hi
    · exact hm.station k i (List.mem_of_mem_filter hi)
    · exact hm.station k i hi
  · rw [hst i] at hs
    rw [h1 i] at hw
    split at hw
    · simp [Slot.doneWith_waiting] at hw
    · rename_i hc
      rw [h2 k]
      have hmem := hm.waiting k i hw hs
      split
      · rename_i hk; exact absurd ⟨hw, k, hk, hs⟩ hc
      · exact hmem

/-- Ending the waiting slots of some stations and then of others ends those of both. -/
theorem TransactionTable.EndsWaiting.trans {t u v : TransactionTable} {as bs : List StationId}
    {status : Status} (h : t.EndsWaiting u as status) (h' : u.EndsWaiting v bs status)
    (hm : t.FifosMatch) (hd : ∀ k ∈ as, k ∉ bs) : t.EndsWaiting v (as ++ bs) status := by
  obtain ⟨h1, h2, h3, h4⟩ := h
  obtain ⟨g1, g2, g3, g4⟩ := h'
  have hst : ∀ i : SlotId, u.slots[i].station = t.slots[i].station := by
    intro i; rw [h1 i]; split <;> rfl
  refine ⟨fun i => ?_, fun k => ?_, ?_, ?_⟩
  · rw [g1 i, hst i]
    by_cases hc : t.slots[i].waiting = true ∧ ∃ k ∈ as, t.slots[i].station = some k
    · have e := h1 i
      rw [if_pos hc] at e
      rw [e, if_neg (by simp [Slot.doneWith_waiting]), if_pos]
      exact ⟨hc.1, hc.2.choose, by simp [hc.2.choose_spec.1], hc.2.choose_spec.2⟩
    · have e := h1 i
      rw [if_neg hc] at e
      rw [e]
      by_cases hc' : t.slots[i].waiting = true ∧ ∃ k ∈ bs, t.slots[i].station = some k
      · rw [if_pos hc', if_pos]
        obtain ⟨a, k, b, c⟩ := hc'
        exact ⟨a, k, by simp [b], c⟩
      · rw [if_neg hc', if_neg]
        rintro ⟨a, k, b, c⟩
        rcases List.mem_append.1 b with b | b
        · exact hc ⟨a, k, b, c⟩
        · exact hc' ⟨a, k, b, c⟩
  · rw [g2 k]
    by_cases ha : k ∈ as
    · have e := h2 k
      rw [if_pos ha] at e
      rw [if_neg (hd k ha), e, if_pos (by simp [ha])]
    · have e := h2 k
      rw [if_neg ha] at e
      rw [e]
      by_cases hb : k ∈ bs
      · rw [if_pos hb, if_pos (by simp [hb])]
        apply List.filter_congr
        intro i hi
        have : u.slots[i] = t.slots[i] := by
          rw [h1 i, if_neg]
          rintro ⟨_, j, hj, hs⟩
          have := hm.station k i hi
          rw [hs] at this
          exact ha (Option.some.inj this ▸ hj)
        rw [this]
      · rw [if_neg hb, if_neg (by simp [ha, hb])]
  · rw [g3, h3, List.flatMap_append, List.append_assoc]
    congr 2
    rw [List.flatMap_def, List.flatMap_def]
    congr 1
    apply List.map_congr_left
    intro k hk
    have ha : k ∉ as := fun h => hd k h hk
    have e := h2 k
    rw [if_neg ha] at e
    rw [e]
    apply List.filter_congr
    intro i hi
    have : u.slots[i] = t.slots[i] := by
      rw [h1 i, if_neg]
      rintro ⟨_, j, hj, hs⟩
      have := hm.station k i hi
      rw [hs] at this
      exact ha (Option.some.inj this ▸ hj)
    rw [this]
  · rw [g4, h4]

/-- R117: the waiting slots of the stations `ks` end, in order. -/
theorem State.foldl_endStationSlots (status : Status) (hu : status.uncertain = false)
    (ks : List StationId) (hn : ks.Nodup) (s : State) (hm : s.tt.FifosMatch) :
    let t := ks.foldl (State.endStationSlots status) s
    t = { s with tt := t.tt } ∧ TransactionTable.EndsWaiting s.tt t.tt ks status := by
  induction ks generalizing s with
  | nil =>
    refine ⟨rfl, fun i => ?_, fun k => ?_, ?_, rfl⟩ <;> simp
  | cons k rest ih =>
    obtain ⟨hk, hr⟩ := List.nodup_cons.1 hn
    simp only [List.foldl_cons]
    obtain ⟨a1, a2⟩ := s.endStationSlots_ends status hu k hm
    obtain ⟨b1, b2⟩ := ih hr (s.endStationSlots status k) (a2.fifosMatch hm)
    refine ⟨?_, ?_⟩
    · rw [b1, a1]
    · exact a2.trans b2 hm (by simpa using hk)

theorem allStations_nodup : allStations.Nodup := List.nodup_finRange 31

theorem mem_allStations (k : StationId) : k ∈ allStations := List.mem_finRange k

/-- R117: a stop or close ends the waiting slots of every station and clears the ending code. -/
theorem State.endAllSlots_ends (status : Status) (hu : status.uncertain = false) (s : State)
    (hm : s.tt.FifosMatch) :
    let t := s.endAllSlots status
    t = { s with tt := t.tt }
      ∧ TransactionTable.EndsWaiting { s.tt with ending := none } t.tt allStations status := by
  obtain ⟨a1, a2⟩ := s.foldl_endStationSlots status hu allStations allStations_nodup hm
  unfold State.endAllSlots
  generalize allStations.foldl (State.endStationSlots status) s = u at a1 a2
  obtain ⟨h1, h2, h3, h4⟩ := a2
  exact ⟨congrArg (fun x : State => { x with tt := { u.tt with ending := none } }) a1, h1, h2, h3,
    congrArg (fun x : TransactionTable => { x with ending := none }) h4⟩

end Sys2Proof.Machine
end

