-- ==== Sys2Proof/Laws/Cycle.lean ====
section
/-! SUPPORT. What the Cycle Scheduler's decisions leave alone: whatever it hands over next, the host queues,
the control request, the Hold Monitor and the Fault List stay, and of a station entry only the carried mark of
its confirm moves (R52 to R63). -/

namespace Sys2Proof.Machine

/-- `t` is `s` but for the CS, the LC, slots and the carried marks of confirms. -/
structure State.KeepsOwners (s t : State) : Prop where
  rest : t = { s with cs := t.cs, lc := t.lc, st := t.st, tt := { s.tt with slots := t.tt.slots } }
  stateEvents : t.st.stateEvents = s.st.stateEvents
  station : ∀ k, t.station k = { s.station k with confirm := (t.station k).confirm }
  confirm : ∀ k, (t.station k).confirm.map (fun c => (c.tag, c.index))
    = (s.station k).confirm.map (fun c => (c.tag, c.index))
  slot : ∀ i, t.slot i = s.slot i ∨ t.slot i = { s.slot i with fitPass := (t.slot i).fitPass }
    ∨ (s.cs.inHand = none → ∃ k, t.cs.inHand = some (.attempt i k) ∧ (s.slot i).station = some k)

/-- Only the CS and the LC differ. -/
theorem State.KeepsOwners.of_cs_lc {s t : State} (h : t = { s with cs := t.cs, lc := t.lc }) :
    s.KeepsOwners t := by
  have hst : t.st = s.st := by rw [h]
  have htt : t.tt = s.tt := by rw [h]
  refine ⟨?_, by rw [hst], fun k => ?_, fun k => ?_, fun i => Or.inl (State.slot_congr htt i)⟩
  · rw [hst, htt]; exact h
  · rw [State.station_congr hst k]
  · rw [State.station_congr hst k]

theorem State.KeepsOwners.refl (s : State) : s.KeepsOwners s := .of_cs_lc rfl

/-- A step of the CS that only sets its own fields may stand before any other. -/
theorem State.KeepsOwners.after_cs {s u t : State} (h : u = { s with cs := u.cs })
    (hi : u.cs.inHand = s.cs.inHand) (h' : u.KeepsOwners t) : s.KeepsOwners t := by
  have hst : u.st = s.st := by rw [h]
  have htt : u.tt = s.tt := by rw [h]
  obtain ⟨a, b, c, d, e⟩ := h'
  refine ⟨?_, by rw [b, hst], fun k => ?_, fun k => ?_, fun i => ?_⟩
  · rw [a, h]
  · rw [← State.station_congr hst k]; exact c k
  · rw [← State.station_congr hst k]; exact d k
  · rw [← State.slot_congr htt i, ← hi]; exact e i

theorem State.endActivity_keepsOwners (s : State) : s.KeepsOwners s.endActivity := .of_cs_lc rfl

theorem State.takeAttempt_keepsOwners (i : SlotId) (s : State) : s.KeepsOwners (s.takeAttempt i) := by
  unfold State.takeAttempt
  split
  · exact .refl s
  · rename_i k hk
    refine ⟨rfl, rfl, fun j => rfl, fun j => rfl, fun j => ?_⟩
    by_cases h : j = i
    · subst h
      exact Or.inr (Or.inr fun _ => ⟨k, rfl, hk⟩)
    · exact Or.inl (State.updSlot_slot_ne i j _ s h)

theorem State.considerFixed_keepsOwners (s : State) : s.KeepsOwners s.considerFixed := by
  unfold State.considerFixed
  split
  · exact .of_cs_lc rfl
  · rename_i i _
    split
    · exact State.takeAttempt_keepsOwners i s
    · refine ⟨rfl, rfl, fun j => rfl, fun j => rfl, fun j => ?_⟩
      by_cases h : j = i
      · subst h
        refine Or.inr (Or.inl ?_)
        have : ((s.updSlot j fun x => { x with fitPass := min (x.fitPass + 1) 4 }).endActivity).slot j
            = { s.slot j with fitPass := min ((s.slot j).fitPass + 1) 4 } :=
          State.updSlot_slot j (fun x => { x with fitPass := min (x.fitPass + 1) 4 }) s
        rw [this]
      · exact Or.inl (State.updSlot_slot_ne i j
          (fun x => { x with fitPass := min (x.fitPass + 1) 4 }) s h)

theorem State.considerFreeRun_keepsOwners (s : State) : s.KeepsOwners s.considerFreeRun := by
  unfold State.considerFreeRun
  split
  · split
    · exact s.endActivity_keepsOwners
    · exact State.takeAttempt_keepsOwners _ s
  · exact s.endActivity_keepsOwners

theorem State.consider_keepsOwners (s : State) : s.KeepsOwners s.consider := by
  unfold State.consider
  split
  · exact s.endActivity_keepsOwners
  · split
    · exact s.considerFixed_keepsOwners
    · exact s.considerFreeRun_keepsOwners

theorem State.enterWindow_keepsOwners (s : State) : s.KeepsOwners s.enterWindow := by
  unfold State.enterWindow
  refine .after_cs (u := { s with cs := { s.cs with phase := .window } }) rfl rfl ?_
  dsimp only
  split
  · exact State.consider_keepsOwners _
  · split
    · exact State.takeAttempt_keepsOwners _ _
    · exact State.consider_keepsOwners _

theorem State.enterProbe_keepsOwners (s : State) : s.KeepsOwners s.enterProbe := by
  unfold State.enterProbe
  split
  · exact s.enterWindow_keepsOwners
  · split
    · exact s.enterWindow_keepsOwners
    · exact .of_cs_lc rfl

theorem State.enterSync_keepsOwners (s : State) : s.KeepsOwners s.enterSync := by
  unfold State.enterSync
  split
  · exact .of_cs_lc rfl
  · exact s.enterProbe_keepsOwners

theorem State.sendPoll_keepsOwners (k : StationId) (s : State) : s.KeepsOwners (s.sendPoll k) := by
  have hk : (s.sendPoll k).station k = (s.station k).markCarried s.hm.safe :=
    State.updStation_station k _ s
  have hj : ∀ j, j ≠ k → (s.sendPoll k).station j = s.station j := fun j h =>
    State.updStation_station_ne k j _ s h
  refine ⟨rfl, rfl, fun j => ?_, fun j => ?_, fun i => Or.inl rfl⟩
  · by_cases h : j = k
    · subst h
      rw [hk]
      unfold Station.markCarried
      split <;> rfl
    · rw [hj j h]
  · by_cases h : j = k
    · subst h
      rw [hk]
      unfold Station.markCarried
      split
      · rfl
      · simp only [Option.map_map]
        rfl
    · rw [hj j h]

theorem State.pollRest_keepsOwners (l : List StationId) (s : State) :
    s.KeepsOwners (State.pollRest l s) := by
  induction l with
  | nil =>
    unfold State.pollRest
    exact .after_cs (u := { s with cs := { s.cs with pollList := [] } }) rfl rfl
      (State.enterSync_keepsOwners _)
  | cons k rest ih =>
    unfold State.pollRest
    split
    · exact .after_cs (u := { s with cs := { s.cs with pollList := rest } }) rfl rfl
        (State.sendPoll_keepsOwners k _)
    · exact ih

/-- R52: the CS's next decision. -/
theorem State.continueCycle_keepsOwners (s : State) : s.KeepsOwners s.continueCycle := by
  unfold State.continueCycle
  split
  · split
    · exact State.pollRest_keepsOwners _ s
    · exact s.enterProbe_keepsOwners
    · exact s.enterWindow_keepsOwners
    · exact s.consider_keepsOwners
    · exact .refl s
    · exact .refl s
  · exact .refl s

/-- R61: the CS's answer to a slot that may have become eligible. -/
theorem State.reportEligible_keepsOwners (s : State) : s.KeepsOwners s.reportEligible := by
  unfold State.reportEligible
  split
  · exact s.consider_keepsOwners
  · exact .refl s

end Sys2Proof.Machine
end

