-- ==== Sys2Proof/Laws/Exchange.lean ====
section
/-! SUPPORT. The end of an exchange: what a line event that fixes an outcome comes to, what the delivery of
the outcome leaves alone, and what each owner does with it (R14, R27 to R39, R52, R105 to R117). -/

namespace Sys2Proof.Machine

/-! ## What a delivery leaves alone -/

/-- `t` is `s` but for the Station Table, the Transaction Table, the Fault List, the host queues and the
control request in progress. -/
def State.KeepsLine (s t : State) : Prop :=
  t = { s with st := t.st, tt := t.tt, fl := t.fl, hqi := t.hqi, sc := { s.sc with request := t.sc.request } }

theorem State.KeepsLine.refl (s : State) : s.KeepsLine s := rfl

theorem State.KeepsLine.trans {s t u : State} (h : s.KeepsLine t) (h' : t.KeepsLine u) : s.KeepsLine u := by
  unfold State.KeepsLine at *
  rw [h', h]

theorem State.updStation_keepsLine (k : StationId) (f : Station → Station) (s : State) :
    s.KeepsLine (s.updStation k f) := rfl

theorem State.moveStation_keepsLine (k : StationId) (d : StationState) (s : State) :
    s.KeepsLine (s.moveStation k d) := rfl

theorem State.raise_keepsLine (kind : FaultKind) (n : Nat) (b : Byte) (s : State) :
    s.KeepsLine (s.raise kind n b) := rfl

theorem State.endCause_keepsLine (kind : FaultKind) (n : Nat) (s : State) :
    s.KeepsLine (s.endCause kind n) := rfl

theorem State.updSlot_keepsLine (i : SlotId) (f : Slot → Slot) (s : State) :
    s.KeepsLine (s.updSlot i f) := rfl

theorem State.completeControl_keepsLine (status : Status) (extra data : List Byte) (s : State) :
    s.KeepsLine (s.completeControl status extra data) := by
  unfold State.completeControl; split <;> rfl

theorem State.endConfirm_keepsLine (k : StationId) (status : Status) (s : State) :
    s.KeepsLine (s.endConfirm k status) := by
  unfold State.endConfirm; split <;> rfl

theorem State.slotDone_keepsLine (i : SlotId) (status : Status) (data : List Byte) (n : Nat) (s : State) :
    s.KeepsLine (s.slotDone i status data n) := by
  have h1 : s.KeepsLine (s.noteUncertain i status) := by
    unfold State.noteUncertain; split
    · rfl
    · split <;> rfl
  have h2 : ∀ u : State, u.KeepsLine (u.leaveFifo i) := by
    intro u; unfold State.leaveFifo; split <;> rfl
  exact (h1.trans (h2 _)).trans rfl

theorem State.endStationSlots_keepsLine (status : Status) (k : StationId) (s : State) :
    s.KeepsLine (s.endStationSlots status k) := by
  unfold State.endStationSlots
  generalize s.fifo k = l
  induction l generalizing s with
  | nil => rfl
  | cons i rest ih =>
    refine State.KeepsLine.trans ?_ (ih _)
    unfold State.endWaitingSlot
    split
    · exact State.slotDone_keepsLine _ _ _ _ _
    · rfl

theorem State.countReport_keepsLine (k : StationId) (p : Bool) (o : LineOutcome) (s : State) :
    s.KeepsLine (s.countReport k p o) := by
  unfold State.countReport; split <;> rfl

theorem State.enterService_keepsLine (k : StationId) (s : State) : s.KeepsLine (s.enterService k) := by
  unfold State.enterService; dsimp only; split
  · rfl
  · split <;> rfl

theorem State.goodIdent_keepsLine (k : StationId) (i : Identity) (s : State) :
    s.KeepsLine (s.goodIdent k i) := by
  have h0 : s.KeepsLine (s.updStation k (Station.recordIdentity i)) := rfl
  refine h0.trans ?_
  unfold State.goodIdent
  dsimp only
  generalize s.updStation k (Station.recordIdentity i) = u
  split
  all_goals first
    | exact State.enterService_keepsLine k u
    | rfl

theorem State.statusCheck_keepsLine (k : StationId) (c : BitVec 4) (s : State) :
    s.KeepsLine (s.statusCheck k c) := by
  unfold State.statusCheck
  dsimp only
  refine State.KeepsLine.trans ?_ (State.updStation_keepsLine _ _ _)
  split
  · rfl
  · split <;> rfl

theorem State.judgeConfirm_keepsLine (k : StationId) (s : State) : s.KeepsLine (s.judgeConfirm k) := by
  unfold State.judgeConfirm
  split
  · split
    · exact State.endConfirm_keepsLine _ _ _
    · rfl
  · rfl

theorem State.goodPoll_keepsLine (k : StationId) (payload : List Byte) (s : State) :
    s.KeepsLine (s.goodPoll k payload) :=
  (((State.updStation_keepsLine _ _ _ : s.KeepsLine
    ((s.moveStation k .active).updStation k fun e => { e with missCount := 0 })).trans
    (State.statusCheck_keepsLine _ _ _)).trans (State.updStation_keepsLine k _ _)).trans
    (State.judgeConfirm_keepsLine k _)

theorem State.stationLost_keepsLine (k : StationId) (d : LinkDetail) (s : State) :
    s.KeepsLine (s.stationLost k d) := by
  unfold State.stationLost
  dsimp only
  refine State.KeepsLine.trans ?_ (State.endConfirm_keepsLine _ _ _)
  exact State.KeepsLine.trans (t := State.raise .stationLost (address k) d.code _) rfl
    (State.endStationSlots_keepsLine _ _ _)

theorem State.pollMiss_keepsLine (k : StationId) (d : LinkDetail) (s : State) :
    s.KeepsLine (s.pollMiss k d) := by
  unfold State.pollMiss
  dsimp only
  split
  · rfl
  · exact State.stationLost_keepsLine _ _ _

theorem State.pollReport_keepsLine (k : StationId) (o : LineOutcome) (s : State) :
    s.KeepsLine (s.pollReport k o) := by
  unfold State.pollReport
  split
  · refine (s.countReport_keepsLine k true o).trans ?_
    generalize s.countReport k true o = u
    dsimp only
    split
    · split
      · exact State.goodPoll_keepsLine _ _ _
      · rfl
      · rfl
      · rfl
      · exact State.pollMiss_keepsLine _ _ _
    · rfl
  · rfl

theorem State.probeReport_keepsLine (k : StationId) (o : LineOutcome) (s : State) :
    s.KeepsLine (s.probeReport k o) := by
  unfold State.probeReport
  split
  · refine (s.countReport_keepsLine k false o).trans ?_
    generalize s.countReport k false o = u
    dsimp only
    split
    · exact State.goodIdent_keepsLine _ _ _
    all_goals rfl
  · rfl

theorem State.answerAbort_keepsLine (b : Bool) (n : Nat) (status : Status) (s : State) :
    s.KeepsLine (s.answerAbort b n status) := by
  unfold State.answerAbort
  split
  · exact State.completeControl_keepsLine _ _ _ _
  · rfl

theorem State.attemptOk_keepsLine (i : SlotId) (k : StationId) (o : LineOutcome) (s : State) :
    s.KeepsLine (s.attemptOk i k o) := by
  unfold State.attemptOk
  split
  · split
    · exact State.slotDone_keepsLine _ _ _ _ _
    all_goals rfl
  · exact State.KeepsLine.trans (t := s.updStation k fun e => { e with toggle := !e.toggle }) rfl
      (State.slotDone_keepsLine _ _ _ _ _)
  · refine State.KeepsLine.trans (t := State.enterRestarting k _) ?_ (State.slotDone_keepsLine _ _ _ _ _)
    unfold State.enterRestarting
    dsimp only
    split <;> rfl
  · rfl

theorem State.attemptGoesOn_keepsLine (i : SlotId) (o : LineOutcome) (b : Bool) (s : State) :
    s.KeepsLine (s.attemptGoesOn i o b) := by
  unfold State.attemptGoesOn
  dsimp only
  split
  · split
    · rfl
    · exact State.slotDone_keepsLine _ _ _ _ _
  · split
    · rfl
    · exact State.slotDone_keepsLine _ _ _ _ _
  · split
    · exact State.KeepsLine.trans (State.updSlot_keepsLine i _ s) (State.slotDone_keepsLine _ _ _ _ _)
    · rfl
  · exact State.slotDone_keepsLine _ _ _ _ _
  · split
    · rfl
    · exact State.KeepsLine.trans (State.updSlot_keepsLine i _ s) (State.slotDone_keepsLine _ _ _ _ _)

theorem State.resyncAtStation_keepsLine (i : SlotId) (k : StationId) (o : LineOutcome) (s : State) :
    s.KeepsLine (s.resyncAtStation i k o) := by
  unfold State.resyncAtStation
  split
  · exact State.goodIdent_keepsLine _ _ _
  · rfl

theorem State.attemptReport_keepsLine (i : SlotId) (k : StationId) (o : LineOutcome) (s : State) :
    s.KeepsLine (s.attemptReport i k o) := by
  unfold State.attemptReport
  refine (s.countReport_keepsLine k false o).trans ?_
  generalize s.countReport k false o = u
  dsimp only
  split
  · exact (State.answerAbort_keepsLine _ _ _ u).trans (State.attemptOk_keepsLine i k o _)
  · refine (State.resyncAtStation_keepsLine i k o u).trans ?_
    generalize u.resyncAtStation i k o = v
    refine State.KeepsLine.trans (State.updSlot_keepsLine i (Slot.noteDoubt o) v) ?_
    generalize v.updSlot i (Slot.noteDoubt o) = w
    split
    · exact (State.answerAbort_keepsLine _ _ _ w).trans (State.slotDone_keepsLine _ _ _ _ _)
    · exact State.attemptGoesOn_keepsLine i o _ w

/-- R52: the delivery of an outcome changes the owners' blocks alone. -/
theorem State.deliver_keepsLine (x : InHand) (o : LineOutcome) (s : State) :
    s.KeepsLine (s.deliver x o) := by
  unfold State.deliver
  split
  · exact State.pollReport_keepsLine _ _ _
  · exact State.probeReport_keepsLine _ _ _
  · exact State.attemptReport_keepsLine _ _ _ _
  · rfl

/-! ## What fixes an outcome -/

/-- The state at the delivery of an outcome: the last character of a reply is in, and the CS has let go. -/
def State.atDelivery (e : OutcomeEvent) (s : State) : State :=
  { s with
    lc := match e with
      | .character c => s.lc.receive c
      | .responseTimeout | .interByteTimeout => s.lc
    cs := { s.cs with inHand := none, activityEnd := some s.now } }

theorem receive_rx (c : Character) (l : LineController) : (l.receive c).rx = replyWith l.rx c := by
  have e : lengthTooLarge l.rx = decide (4 ≤ l.rx.length ∧ 34 < (l.rx.getD 3 0).toNat) :=
    (Bool.decide_and _ _).symm
  show (if lengthTooLarge l.rx = true then l.rx else l.rx ++ [c.data]) = _
  unfold replyWith
  by_cases h : 4 ≤ l.rx.length ∧ 34 < (l.rx.getD 3 0).toNat
  · rw [if_pos h, if_pos (by rw [e]; exact decide_eq_true h)]
  · rw [if_neg h, if_neg (by rw [e]; simpa using h)]

theorem replyComplete_iff (rx : List Byte) : replyComplete rx = true ↔
    4 ≤ rx.length ∧ (rx.getD 3 0).toNat ≤ 34 ∧ rx.length = 6 + (rx.getD 3 0).toNat := by
  unfold replyComplete
  rw [Bool.and_eq_true, Bool.and_eq_true, decide_eq_true_eq, decide_eq_true_eq, decide_eq_true_eq, and_assoc]
  rfl

/-- The reply's own verdict is the outcome of its last character. -/
theorem outcomeAt_character (c : Character) (s : State) :
    s.outcomeAt (.character c)
      = if s.lc.state = .receiving then (s.lc.receive c).replyOutcome else none := by
  unfold State.outcomeAt LineController.replyOutcome
  have hx : (s.lc.receive c).exchange = s.lc.exchange := rfl
  have hc : (s.lc.receive c).corrupt = (s.lc.corrupt || c.framingError) := rfl
  rw [hx, receive_rx, hc]
  dsimp only
  by_cases hr : s.lc.state = .receiving
  · rw [if_pos hr]
    cases s.lc.exchange with
    | none => rfl
    | some x =>
      dsimp only
      by_cases h : replyComplete (replyWith s.lc.rx c) = true
      · rw [if_pos h, if_pos ⟨hr, (replyComplete_iff _).1 h⟩]
      · rw [if_neg h, if_neg (fun g => h ((replyComplete_iff _).2 g.2))]
  · rw [if_neg hr]
    cases s.lc.exchange with
    | none => rfl
    | some x =>
      dsimp only
      rw [if_neg (fun g => hr g.1)]

theorem enterGap_eq (l : LineController) : l.enterGap = { l with
    state := .gap
    exchange := none
    responseTimer := none
    gapTimer := some (l.params.elim 0 LineParams.gapTime) } := by
  have : (match l.params with | none => 0 | some p => p.gapTime) = l.params.elim 0 LineParams.gapTime := by
    cases l.params <;> rfl
  rw [← this]
  rfl

/-- R14, R52: what the row of a line event does where it fixes the outcome `o` of the exchange in hand: the
owner is told, then the LC and the request that waits for the line, and the CS goes on. -/
theorem State.exec_rowOf {s : State} {e : OutcomeEvent} {o : LineOutcome} {x : InHand}
    (ho : s.outcomeAt e = some o) (hx : s.cs.inHand = some x) :
    exec (rowOf e) s = .next (State.continueCycle (State.afterOutcome o
      (let d := (s.atDelivery e).deliver x o
       { d with
         lc := (s.exchangeOver e).lc
         sc := { d.sc with request := d.sc.request.map fun q => { q with stage := q.stage.lineReported } } }))) := by
  have key : ∀ u : State, u.cs.inHand = some x → { u with cs := u.cs.letGo u.now } = s.atDelivery e →
      (s.exchangeOver e).lc = u.lc.enterGap →
      u.endExchange o = State.continueCycle (State.afterOutcome o
        (let d := (s.atDelivery e).deliver x o
         { d with
           lc := (s.exchangeOver e).lc
           sc := { d.sc with
             request := d.sc.request.map fun q => { q with stage := q.stage.lineReported } } })) := by
    intro u hu hd hl
    unfold State.endExchange
    rw [hu]
    dsimp only
    have hd' : ({ u with cs := u.cs.letGo u.now } : State).deliver x o = (s.atDelivery e).deliver x o := by
      rw [hd]
    rw [hd']
    have hk := State.deliver_keepsLine x o (s.atDelivery e)
    have hlc : (s.atDelivery e).lc = u.lc := by rw [← hd]
    generalize (s.atDelivery e).deliver x o = d at hk
    have hdl : d.lc = u.lc := by rw [hk]; exact hlc
    congr 1
    unfold State.afterOutcome
    by_cases hm : o = .failed .misaddressed
    · rw [if_pos hm, if_pos hm, hl]
      unfold State.countUnexpected State.trafficCounted State.reportLine
      rw [hdl]
      dsimp only
      have e1 : u.lc.enterGap.perCycle = u.lc.perCycle := rfl
      rw [e1]
      by_cases h4 : 4 ≤ (satInc u.lc.perCycle).toNat
      · rw [if_pos h4, if_pos h4]; rfl
      · rw [if_neg h4, if_neg h4]; rfl
    · rw [if_neg hm, if_neg hm, hl, hdl]; rfl
  cases e with
  | character c =>
    rw [outcomeAt_character] at ho
    split at ho
    · rename_i hr
      have h1 : exec (rowOf (.character c)) s
          = .next (({ s with lc := s.lc.receive c } : State).endExchange o) := by
        show Host.Outcome.next (s.onCharacter c) = _
        unfold State.onCharacter
        rw [hr]
        unfold State.receiveCharacter
        dsimp only
        rw [ho]
      rw [h1, key { s with lc := s.lc.receive c } hx rfl]
      rw [enterGap_eq]
      dsimp only
      rw [receive_rx]
      rfl
    · cases ho
  | responseTimeout =>
    unfold State.outcomeAt at ho
    dsimp only at ho
    split at ho
    · rename_i hr
      cases ho
      have h1 : exec (rowOf .responseTimeout) s = .next (s.endExchange (.failed .timeout)) := by
        show Host.Outcome.next s.onResponseTimeout = _
        unfold State.onResponseTimeout
        rw [if_pos hr]
      rw [h1, key s hx rfl]
      rw [enterGap_eq]
      rfl
    · cases ho
  | interByteTimeout =>
    unfold State.outcomeAt at ho
    dsimp only at ho
    split at ho
    · rename_i hr
      cases ho
      have h1 : exec (rowOf .interByteTimeout) s = .next (s.endExchange (.failed .malformed)) := by
        show Host.Outcome.next s.onInterByteTimeout = _
        unfold State.onInterByteTimeout
        rw [if_pos hr]
      rw [h1, key s hx rfl]
      rw [enterGap_eq]
      rfl
    · cases ho

end Sys2Proof.Machine
end

