-- ==== Sys2Proof/Laws/Faults.lean ====
section
/-! SUPPORT. The walks over the fault list: what ACK_FAULT with ALL and CLOSE_SESSION leave in it, how many
changes they count and which change is carried (R131, R135, R140). -/

namespace Sys2Proof.Machine

/-! ## A run of changes (R135) -/

/-- Counting one change up and saturating, as a number. -/
theorem satInc_toNat (x : Half) : (satInc x).toNat = min (x.toNat + 1) 65535 := by
  unfold satInc
  split
  · rename_i h; rw [h]; rfl
  · rename_i h
    have : x.toNat ≠ 65535 := fun h' => h (BitVec.eq_of_toNat_eq (h'.trans rfl))
    have := x.isLt
    rw [BitVec.toNat_add]; simp; omega

/-- Changes one after the other: each is counted, the last is carried, and the event becomes pending unless its
record is in staging. -/
theorem FaultList.foldl_change (l : List Carried) : ∀ f : FaultList,
    let g := l.foldl (fun g c => g.change (some c)) f
    g.entries = f.entries ∧ g.overflow = f.overflow ∧ g.inStaging = f.inStaging
    ∧ g.changes.toNat = min (f.changes.toNat + l.length) 65535
    ∧ g.pending = (f.pending || (!l.isEmpty && !f.inStaging))
    ∧ g.carried = l.getLast?.getD f.carried := by
  induction l with
  | nil => intro f; have := f.changes.isLt; simp; omega
  | cons c l ih =>
    intro f
    obtain ⟨h1, h2, h3, h4, h5, h6⟩ := ih (f.change (some c))
    have hc : (f.change (some c)).changes.toNat = min (f.changes.toNat + 1) 65535 := satInc_toNat _
    refine ⟨h1, h2, h3, ?_, ?_, ?_⟩
    · rw [List.foldl_cons, h4, hc, List.length_cons]; omega
    · rw [List.foldl_cons, h5]
      simp only [FaultList.change]
      cases f.pending <;> cases f.inStaging <;> simp
    · rw [List.foldl_cons, h6]
      cases l with
      | nil => rfl
      | cons d l => rw [List.getLast?_cons_cons]; simp [List.getLast?_eq_some_getLast (List.cons_ne_nil d l)]

theorem getLast?_cons_of_some {α : Type} {a x : α} {l : List α} (h : l.getLast? = some x) :
    (a :: l).getLast? = some x := by
  cases l with
  | nil => cases h
  | cons => rw [List.getLast?_cons_cons]; exact h

/-! ## ACK_FAULT with ALL (R131) -/

theorem ackWalk_length (l : List FaultEntry) : ∀ p,
    (ackWalk l p).2.length = (l.filter fun e => e.ended || !e.acknowledged).length := by
  induction l with
  | nil => intro p; rfl
  | cons e l ih =>
    intro p
    unfold ackWalk
    split
    · simp [*]
    · split <;> simp [*]

theorem ackWalk_entries (l : List FaultEntry) : ∀ p,
    (ackWalk l p).1 = (l.filter fun e => !e.ended).map fun e => { e with acknowledged := true } := by
  induction l with
  | nil => intro p; rfl
  | cons e l ih =>
    intro p
    unfold ackWalk
    split
    · simp [*]
    · split
      · rename_i h h'; simp [h, ih]; cases e; simp_all
      · simp [*]

/-- The last change of the walk is that of the last entry that changes. -/
theorem ackWalk_last (before : List FaultEntry) (e : FaultEntry) (after : List FaultEntry)
    (h : ∀ x ∈ after, x.ended = false ∧ x.acknowledged = true) : ∀ p,
    (e.ended = false → e.acknowledged = false →
      (ackWalk (before ++ e :: after) p).2.getLast? = some (.entry e.kind e.station))
    ∧ (e.ended = true → (ackWalk (before ++ e :: after) p).2.getLast?
      = some (.removed { e with acknowledged := true } (p + (before.filter fun x => !x.ended).length))) := by
  have none : ∀ p, (ackWalk after p).2 = [] := by
    intro p
    apply List.eq_nil_of_length_eq_zero
    rw [ackWalk_length, List.length_eq_zero_iff, List.filter_eq_nil_iff]
    intro x hx
    simp [h x hx]
  induction before with
  | nil =>
    intro p
    exact ⟨fun h1 h2 => by simp [ackWalk, h1, h2, none], fun h1 => by simp [ackWalk, h1, none]⟩
  | cons b before ih =>
    intro p
    rw [List.cons_append]
    refine ⟨fun h1 h2 => ?_, fun h1 => ?_⟩ <;> unfold ackWalk
    · split
      · exact getLast?_cons_of_some ((ih p).1 h1 h2)
      · split
        · exact (ih (p + 1)).1 h1 h2
        · exact getLast?_cons_of_some ((ih (p + 1)).1 h1 h2)
    · split
      · rename_i hb
        rw [List.filter_cons_of_neg (by simp [hb])]
        exact getLast?_cons_of_some ((ih p).2 h1)
      · rename_i hb
        rw [List.filter_cons_of_pos (by simp [hb]), List.length_cons, ← Nat.add_assoc, Nat.add_right_comm]
        split
        · exact (ih (p + 1)).2 h1
        · exact getLast?_cons_of_some ((ih (p + 1)).2 h1)

/-- What ACK_FAULT with ALL makes of the list. -/
theorem FaultList.acknowledgeAll_spec (f : FaultList) :
    let g := f.acknowledgeAll.1
    g.entries = (f.entries.filter fun e => !e.ended).map (fun e => { e with acknowledged := true })
    ∧ g.overflow = f.overflow ∧ g.inStaging = f.inStaging
    ∧ g.changes.toNat
      = min (f.changes.toNat + (f.entries.filter fun e => e.ended || !e.acknowledged).length) 65535
    ∧ g.pending = (f.pending || (!(ackWalk f.entries 0).2.isEmpty && !f.inStaging))
    ∧ g.carried = (ackWalk f.entries 0).2.getLast?.getD f.carried := by
  obtain ⟨h1, h2, h3, h4, h5, h6⟩ :=
    FaultList.foldl_change (ackWalk f.entries 0).2 { f with entries := (ackWalk f.entries 0).1 }
  exact ⟨h1.trans (ackWalk_entries _ 0), h2, h3, by rw [← ackWalk_length _ 0]; exact h4, h5, h6⟩

/-! ## CLOSE_SESSION (R140) -/

theorem endWalk_length (l : List FaultEntry) : ∀ p,
    (endWalk l p).2.length = (l.filter fun e => !e.ended).length := by
  induction l with
  | nil => intro p; rfl
  | cons e l ih =>
    intro p
    unfold endWalk
    split
    · simp [*]
    · split <;> simp [*]

theorem endWalk_entries (l : List FaultEntry) : ∀ p,
    (endWalk l p).1
      = (l.filter fun e => e.ended || !e.acknowledged).map fun e => { e with ended := true } := by
  induction l with
  | nil => intro p; rfl
  | cons e l ih =>
    intro p
    unfold endWalk
    split
    · rename_i h; simp [h, ih]; cases e; simp_all
    · split <;> simp [*]

/-- The last change of the walk is that of the last ACTIVE entry. -/
theorem endWalk_last (before : List FaultEntry) (e : FaultEntry) (after : List FaultEntry)
    (h : ∀ x ∈ after, x.ended = true) (he : e.ended = false) : ∀ p,
    (e.acknowledged = false → (endWalk (before ++ e :: after) p).2.getLast? = some (.entry e.kind e.station))
    ∧ (e.acknowledged = true → (endWalk (before ++ e :: after) p).2.getLast?
      = some (.removed { e with ended := true }
        (p + (before.filter fun x => x.ended || !x.acknowledged).length))) := by
  have none : ∀ p, (endWalk after p).2 = [] := by
    intro p
    apply List.eq_nil_of_length_eq_zero
    rw [endWalk_length, List.length_eq_zero_iff, List.filter_eq_nil_iff]
    intro x hx
    simp [h x hx]
  induction before with
  | nil =>
    intro p
    exact ⟨fun h2 => by simp [endWalk, he, h2, none], fun h2 => by simp [endWalk, he, h2, none]⟩
  | cons b before ih =>
    intro p
    rw [List.cons_append]
    refine ⟨fun h2 => ?_, fun h2 => ?_⟩ <;> unfold endWalk
    · split
      · exact (ih (p + 1)).1 h2
      · split
        · exact getLast?_cons_of_some ((ih p).1 h2)
        · exact getLast?_cons_of_some ((ih (p + 1)).1 h2)
    · split
      · rename_i hb
        rw [List.filter_cons_of_pos (by simp [hb]), List.length_cons, ← Nat.add_assoc, Nat.add_right_comm]
        exact (ih (p + 1)).2 h2
      · rename_i hb
        split
        · rename_i hc
          rw [List.filter_cons_of_neg (by simp [hb, hc])]
          exact getLast?_cons_of_some ((ih p).2 h2)
        · rename_i hc
          rw [List.filter_cons_of_pos (by simp [hc]), List.length_cons, ← Nat.add_assoc,
            Nat.add_right_comm]
          exact getLast?_cons_of_some ((ih (p + 1)).2 h2)

/-- What a close makes of the list. -/
theorem FaultList.endAll_spec (f : FaultList) :
    let g := f.endAll
    g.entries
      = (f.entries.filter fun e => e.ended || !e.acknowledged).map (fun e => { e with ended := true })
    ∧ g.overflow = f.overflow ∧ g.inStaging = f.inStaging
    ∧ g.changes.toNat = min (f.changes.toNat + (f.entries.filter fun e => !e.ended).length) 65535
    ∧ g.pending = (f.pending || (!(endWalk f.entries 0).2.isEmpty && !f.inStaging))
    ∧ g.carried = (endWalk f.entries 0).2.getLast?.getD f.carried := by
  obtain ⟨h1, h2, h3, h4, h5, h6⟩ :=
    FaultList.foldl_change (endWalk f.entries 0).2 { f with entries := (endWalk f.entries 0).1 }
  exact ⟨h1.trans (endWalk_entries _ 0), h2, h3, by rw [← endWalk_length _ 0]; exact h4, h5, h6⟩

end Sys2Proof.Machine
end

