-- ==== Sys2Proof/Laws/Queue.lean ====
section
/-! SUPPORT. The Host Queue Interface: what the ring counts, the holding test, the arbiter and the
descriptor judgement say. -/

namespace Sys2Proof.Machine

theorem span_eq_zero_iff {n h t : Nat} (hh : h < n) (ht : t < n) : span n h t = 0 ↔ t = h := by
  unfold span
  constructor
  · intro e
    by_contra hne
    by_cases hlt : t < h
    · rw [Nat.mod_eq_of_lt (by omega)] at e; omega
    · rw [show t + n - h = (t - h) + n by omega, Nat.add_mod_right, Nat.mod_eq_of_lt (by omega)] at e
      omega
  · rintro rfl
    rw [Nat.add_sub_cancel_left, Nat.mod_self]

theorem TransactionTable.freeCount_eq_zero_iff (s : State) :
    s.tt.freeCount = 0 ↔ ∀ i, (s.slot i).state ≠ .free := by
  unfold TransactionTable.freeCount State.slot
  rw [List.length_eq_zero_iff, List.filter_eq_nil_iff]
  constructor
  · intro h i; have := h s.tt.slots[i] (by simp); simpa using this
  · intro h a ha
    simp at ha
    obtain ⟨i, hi, rfl⟩ := Vector.mem_iff_getElem.1 ha
    simpa using h ⟨i, hi⟩

/-- The holding test looks at the slots and the confirm results lists alone. -/
theorem State.mustHold_congr {s t : State} (ht : t.tt = s.tt) (hst : t.st = s.st) (r : Record) :
    t.mustHold r = s.mustHold r := by
  unfold State.mustHold State.station
  rw [ht, hst]

/-- The arbiter, where it has a place to give. -/
theorem State.onGrant_of_place {s : State} (h1 : s.sc.engine.serving = true)
    (h2 : s.hqi.staging.length < 8) :
    s.onGrant = match s.topClaim with | some c => s.grant c | none => s := by
  unfold State.onGrant; exact if_pos ⟨h1, h2⟩

theorem State.readyCompletion_of_noneReady {s : State} (h : s.NoneReady) :
    s.sc.readyCompletion = none := by
  unfold SessionController.readyCompletion
  split
  · rename_i h1; exact absurd rfl (h _ _ h1)
  · rfl

/-- The first station for which `p` holds is what a search in ascending order finds. -/
theorem find?_allStations_of_isFirst {p : StationId → Bool} {k : StationId}
    (h : IsFirst (fun j => p j = true) k) : allStations.find? p = some k := by
  unfold allStations
  rw [List.find?_eq_some_iff_append]
  refine ⟨h.1, (List.finRange 31).take k.val, (List.finRange 31).drop (k.val + 1), ?_, ?_⟩
  · conv => lhs; rw [← List.take_append_drop k.val (List.finRange 31)]
    congr 1
    rw [List.drop_eq_getElem_cons (by simp)]
    simp
  · intro a ha
    rw [List.mem_take_iff_getElem] at ha
    obtain ⟨i, hi, rfl⟩ := ha
    simp at hi ⊢
    have := h.2 ⟨i, by omega⟩ (by simp [Fin.lt_def]; omega)
    simpa using this

/-- The entry of a kind and station stands where the list holds it, when the list has no second one. -/
theorem FaultList.position_of_getElem {f : FaultList} {i : Nat} {e : FaultEntry}
    (hp : f.entries.Pairwise (fun a b => a.kind ≠ b.kind ∨ a.station ≠ b.station))
    (hi : f.entries[i]? = some e) : f.position e.kind e.station = some i := by
  unfold FaultList.position
  rw [List.findIdx?_eq_some_iff_getElem]
  have hlt : i < f.entries.length := by
    by_contra hcon; rw [List.getElem?_eq_none (by omega)] at hi; cases hi
  rw [List.getElem?_eq_getElem hlt] at hi
  simp at hi
  refine ⟨hlt, ?_, ?_⟩
  · rw [hi]; simp [FaultEntry.isFor]
  · intro j hj
    have := List.pairwise_iff_getElem.1 hp j i (by omega) hlt hj
    rw [hi] at this
    simp [FaultEntry.isFor]; tauto

/-! ## The descriptor -/

theorem ringOf_of_valid {base count : Word} (hb : base.toNat % 64 = 0)
    (hc : count.toNat ∈ [16, 32, 64, 128, 256, 512, 1024]) :
    ringOf base count = some { base := base, count := count.toNat } := by
  unfold ringOf
  rw [if_pos ⟨BitVec.eq_of_toNat_eq (by simpa using hb), hc⟩]

theorem ringOf_of_not_valid {base count : Word}
    (h : ¬ (base.toNat % 64 = 0 ∧ count.toNat ∈ [16, 32, 64, 128, 256, 512, 1024])) :
    ringOf base count = none := by
  unfold ringOf
  rw [if_neg]
  rintro ⟨hb, hc⟩
  exact h ⟨by simpa using congrArg BitVec.toNat hb, hc⟩

/-! ## Accesses on the slave port (R165) -/

/-- A good access is 32 bits wide, aligned, and at an offset below 28h. -/
theorem SlaveAccess.good_iff (a : SlaveAccess) :
    a.good = true ↔ a.width = 4 ∧ a.offset % 4 = 0 ∧ a.offset < 0x28 := by
  unfold SlaveAccess.good
  simp only [Bool.and_eq_true, decide_eq_true_eq]
  constructor
  · rintro ⟨⟨h1, h2⟩, h3⟩
    refine ⟨h1, h2, ?_⟩
    by_contra hc
    have : Register.atOffset a.offset = none := by
      unfold Register.atOffset
      rw [List.find?_eq_none]
      intro r _
      have : r.offset < 0x28 := by cases r <;> decide
      simp
      omega
    rw [this] at h3
    cases h3
  · rintro ⟨h1, h2, h3⟩
    have : a.offset ∈ [0, 4, 8, 12, 16, 20, 24, 28, 32, 36] := by simp; omega
    refine ⟨⟨h1, h2⟩, ?_⟩
    generalize a.offset = o at this
    fin_cases this <;> rfl

/-- Every good access lies in the port's range. -/
theorem SlaveAccess.inRange_of_good {a : SlaveAccess} (h : a.good = true) : a.offset < Config.portRange := by
  have := ((SlaveAccess.good_iff a).1 h).2.2
  have : Config.portRange = 0x40 := rfl
  omega

/-- What any access on the slave port does. -/
theorem State.slaveAccess_spec (a : SlaveAccess) (s : State) :
    (Config.portRange ≤ a.offset → s.slaveAccess a = s)
    ∧ (a.offset < Config.portRange → a.inReset = true → s.slaveAccess a = { s.resetNow .power with
        bus := if a.good then (if a.write then .written else .read 0) else .error })
    ∧ (a.offset < Config.portRange → a.inReset = false → a.good = false →
      s.slaveAccess a = { s with bus := .error })
    ∧ (∀ r, a.good = true → a.inReset = false → Register.atOffset a.offset = some r →
      s.slaveAccess a
        = if a.write then s.writeRegister r a.value else { s with bus := .read (s.readRegister r) }) := by
  unfold State.slaveAccess
  refine ⟨fun h => if_neg (Nat.not_lt.2 h), fun h hr => ?_, fun h hr hg => ?_, fun r hg hr ho => ?_⟩
  · rw [if_pos h, if_pos hr]
    rfl
  · simp [h, hr, State.accessInService, hg]
  · simp [SlaveAccess.inRange_of_good hg, hr, State.accessInService, hg, ho]

end Sys2Proof.Machine
end

