-- ==== Sys2Proof/Laws/Records.lean ====
section
/-! SUPPORT. What the fields and the common checks of a request record say in terms of its bytes, and what
`applying` and `takenOf` answer under the hypotheses the claims use. -/

namespace Sys2Proof.Machine

theorem RequestKind.ofCode_eq_some_iff (k : RequestKind) (b : Byte) :
    RequestKind.ofCode b = some k ↔ b = k.code := by
  cases k <;> revert b <;> decide +kernel

theorem RequestKind.ofCode_eq_none_iff (b : Byte) :
    RequestKind.ofCode b = none ↔
      ¬ (1 ≤ b.toNat ∧ b.toNat ≤ 0xC) ∧ ¬ (0x21 ≤ b.toNat ∧ b.toNat ≤ 0x27) := by
  revert b; decide +kernel

theorem Record.kind_eq_some_iff (r : Record) (k : RequestKind) : r.kind = some k ↔ r[0] = k.code :=
  RequestKind.ofCode_eq_some_iff k _

theorem Record.station_eq_some_iff (r : Record) (k : StationId) :
    r.station = some k ↔ r[4].toNat = k.val + 1 := by
  unfold Record.station stationAt Record.stationByte
  have := k.isLt
  split
  · simp only [Option.some.injEq, Fin.ext_iff]; omega
  · simp; omega

theorem Record.station_eq_none_iff (r : Record) :
    r.station = none ↔ ¬ (1 ≤ r[4].toNat ∧ r[4].toNat ≤ 31) := by
  unfold Record.station stationAt Record.stationByte
  split <;> simp_all

/-- A control kind's code, as a byte, and whether it names a station. -/
theorem RequestKind.control_code (b : Byte) (h : 1 ≤ b.toNat ∧ b.toNat ≤ 0xC) :
    ∃ k, RequestKind.ofCode b = some k ∧ k.ring = .control
      ∧ (k.namesStation = true ↔ b.toNat ∈ [0x05, 0x06, 0x0B, 0x21, 0x22, 0x23, 0x25, 0x26, 0x27]) := by
  have h2 : b.toNat ∈ [1, 2, 3, 4, 5, 6, 7, 8, 9, 10, 11, 12] := by simp; omega
  simp at h2
  rcases h2 with h | h | h | h | h | h | h | h | h | h | h | h <;>
    simp [RequestKind.ofCode, h, RequestKind.ring, RequestKind.namesStation]

/-- A transfer kind's code, as a byte, and whether it names a station. -/
theorem RequestKind.transfer_code (b : Byte) (h : 0x21 ≤ b.toNat ∧ b.toNat ≤ 0x27) :
    ∃ k, RequestKind.ofCode b = some k ∧ k.ring = .transfer
      ∧ (k.namesStation = true ↔ b.toNat ∈ [0x05, 0x06, 0x0B, 0x21, 0x22, 0x23, 0x25, 0x26, 0x27]) := by
  have h2 : b.toNat ∈ [0x21, 0x22, 0x23, 0x24, 0x25, 0x26, 0x27] := by simp; omega
  simp at h2
  rcases h2 with h | h | h | h | h | h | h <;>
    simp [RequestKind.ofCode, h, RequestKind.ring, RequestKind.namesStation]

/-- A record that passes the common checks and names a station has data of at most 32 bytes. -/
theorem Record.dataLength_le (r : Record) (ring : SubmissionRing) (k : RequestKind)
    (hc : r.commonCheck ring = none) (hk : r.kind = some k) (hn : k.namesStation = true) :
    r.dataLength ≤ 32 := by
  unfold Record.commonCheck at hc
  simp only [hk] at hc
  split at hc
  · cases hc
  · split at hc
    · cases hc
    · split at hc
      · cases hc
      · rename_i h; simp [hn] at h; omega

/-! ## The request that is being applied -/

theorem State.applying_of_applies {s : State} {k : RequestKind} {q : ControlRequest}
    (h : s.Applies k q) : s.applying k = some q.record := by
  obtain ⟨h1, h2, h3, h4⟩ := h
  simp [State.applying, h1, h2, Record.isValid, h3, h4]

/-- A control request that is taken in this engine state is applied by its owner. -/
theorem State.applyControl_of_applies {s : State} {k : RequestKind} {q : ControlRequest}
    (f : Record → State → State) (h : s.Applies k q) (he : k.takenIn s.sc.engine = true) :
    s.applyControl k f = f q.record s := by
  simp [State.applyControl, State.applying_of_applies h, he]

/-- A control request that is not taken in this engine state completes BAD_STATE. -/
theorem State.applyControl_refused {s : State} {k : RequestKind} {q : ControlRequest}
    (f : Record → State → State) (h : s.Applies k q) (he : k.takenIn s.sc.engine = false) :
    s.applyControl k f = s.controlAnswered q (.rejected .badState) [] [] := by
  simp only [State.applyControl, State.applying_of_applies h, he, State.completeControl, h.1]; rfl

theorem State.takenOf_of_takes {s : State} {k : RequestKind} {t : TakenRecord}
    (h : s.Takes k t) : s.takenOf k = some t := by
  obtain ⟨h1, h2, h3⟩ := h
  simp [State.takenOf, h1, Record.isValid, h2, h3]

/-- A taken transfer record is applied by its owner. -/
theorem State.applyTransfer_of_takes {s : State} {k : RequestKind} {t : TakenRecord}
    (f : TakenRecord → State → State) (h : s.Takes k t) : s.applyTransfer k f = f t s := by
  simp [State.applyTransfer, State.takenOf_of_takes h]

/-- R147: the kinds taken in CONFIG and RUN alike. -/
theorem RequestKind.takenIn_config_run {k : RequestKind} {e : EngineState}
    (hk : k ∈ [RequestKind.closeSession, .configureStation, .removeStation, .readStation, .readStats, .abort])
    (he : e ∈ [EngineState.config, .run]) : k.takenIn e = true := by
  cases k <;> cases e <;> first | rfl | (revert hk; decide) | (revert he; decide)

/-- R147: the kinds taken in IDLE too. -/
theorem RequestKind.takenIn_idle_config_run {k : RequestKind} {e : EngineState}
    (hk : k ∈ [RequestKind.ackFault, .readFaults, .resume])
    (he : e ∈ [EngineState.idle, .config, .run]) : k.takenIn e = true := by
  cases k <;> cases e <;> first | rfl | (revert hk; decide) | (revert he; decide)

/-! ## Answers -/

theorem Record.completion_eq (r : Record) (ring : SubmissionRing) (index : Nat) (status : Status)
    (extra data : List Byte) : r.completion ring index status extra data
      = answerTo r ring index status extra data := rfl

/-- While `q` is the control request in progress, completing it is answering it. -/
theorem State.completeControl_of_request {s : State} {q : ControlRequest} (h : s.sc.request = some q)
    (status : Status) (extra data : List Byte) :
    s.completeControl status extra data = s.controlAnswered q status extra data := by
  simp only [State.completeControl, h]; rfl

theorem State.answer_of_request {s : State} {q : ControlRequest} (h : s.sc.request = some q)
    (status : Status) : s.answer status = s.controlAnswered q status [] [] :=
  State.completeControl_of_request h status [] []

theorem State.deferControl_of_request {s : State} {q : ControlRequest} (h : s.sc.request = some q) :
    s.deferControl = s.controlWaiting q := by
  simp only [State.deferControl, h, Option.map_some]; rfl

theorem State.completeTransfer_eq (s : State) (t : TakenRecord) (status : Status) (data : List Byte) :
    s.completeTransfer t status data = s.transferAnswered t status data := rfl

/-! ## Fields as numbers -/

theorem littleEndian_one (b : Byte) : littleEndian [b] = b.toNat := by simp [littleEndian]

theorem littleEndian_two (a b : Byte) : littleEndian [a, b] = (halfOf a b).toNat := by
  simp only [littleEndian, halfOf, BitVec.toNat_append, Nat.shiftLeft_eq]
  have := a.isLt
  have h : b.toNat * 2 ^ 8 ||| a.toNat = b.toNat * 2 ^ 8 + a.toNat := by
    rw [← Nat.shiftLeft_eq, ← Nat.shiftLeft_add_eq_or_of_lt a.isLt]
  rw [h]; omega

theorem littleEndian_four (a b c d : Byte) : littleEndian [a, b, c, d] = (wordOf a b c d).toNat := by
  have e : ∀ (n : Nat) (x : BitVec n) (y : Byte),
      (x ++ y).toNat = x.toNat * 256 + y.toNat := by
    intro n x y
    rw [BitVec.toNat_append, ← Nat.shiftLeft_add_eq_or_of_lt y.isLt, Nat.shiftLeft_eq]
  simp only [littleEndian, wordOf, e]
  omega

theorem littleEndian_halfBytes (x : Half) : littleEndian (halfBytes x) = x.toNat := by
  unfold halfBytes
  rw [littleEndian_two]
  unfold halfOf
  congr 1
  ext i hi
  simp
  grind

theorem littleEndian_wordBytes (x : Word) : littleEndian (wordBytes x) = x.toNat := by
  unfold wordBytes
  rw [littleEndian_four]
  unfold wordOf
  congr 1
  ext i hi
  simp
  grind

theorem fieldAt_one (r : Record) (i : Nat) (h : i < 64) : fieldAt r i 1 = r[i].toNat := by
  unfold fieldAt
  rw [List.drop_eq_getElem_cons (by simpa using h)]
  simp [littleEndian]

theorem fieldAt_two (r : Record) (i : Nat) (h : i + 1 < 64) :
    fieldAt r i 2 = (halfOf r[i] r[i + 1]).toNat := by
  unfold fieldAt
  rw [List.drop_eq_getElem_cons (by simp; omega), List.drop_eq_getElem_cons (by simp; omega)]
  simpa using littleEndian_two _ _

theorem fieldAt_four (r : Record) (i : Nat) (h : i + 3 < 64) :
    fieldAt r i 4 = (wordOf r[i] r[i + 1] r[i + 2] r[i + 3]).toNat := by
  unfold fieldAt
  rw [List.drop_eq_getElem_cons (by simp; omega), List.drop_eq_getElem_cons (by simp; omega),
    List.drop_eq_getElem_cons (by simp; omega), List.drop_eq_getElem_cons (by simp; omega)]
  simpa using littleEndian_four _ _ _ _

theorem Record.data_eq (r : Record) : r.data = (r.toList.drop 32).take (fieldAt r 5 1) := by
  rw [fieldAt_one _ _ (by omega)]; rfl

theorem Record.stationParams_eq (r : Record) : r.stationParams = {
    expectedType := BitVec.ofNat 16 (fieldAt r 8 2)
    inputSize := fieldAt r 10 1
    outputSize := fieldAt r 11 1
    divisor := fieldAt r 12 1
    missLimit := fieldAt r 13 1
    restartDelay := fieldAt r 14 1 } := by
  simp only [Record.stationParams, fieldAt_one, fieldAt_two, Nat.reduceAdd, Nat.reduceLT,
    BitVec.ofNat_toNat, BitVec.setWidth_eq]

theorem Record.sessionParams_eq (r : Record) : r.sessionParams = {
    bitRate := fieldAt r 8 1
    responseTimeout := fieldAt r 10 2
    gap := fieldAt r 9 1
    period := fieldAt r 12 4
    budget := fieldAt r 16 1
    attemptLimit := fieldAt r 17 1
    waitLimit := fieldAt r 18 1
    backoff := fieldAt r 20 2
    holdTime := fieldAt r 22 2
    options := r[19]
    threshold := fieldAt r 24 1
    delay := fieldAt r 26 2 } := by
  simp only [Record.sessionParams, fieldAt_one, fieldAt_two, fieldAt_four, Nat.reduceAdd, Nat.reduceLT]

end Sys2Proof.Machine
end

