-- ==== Sys2Proof/Laws/Session.lean ====
section
/-! SUPPORT. What a stop, a close and a removal do as they are applied, said once for the rows that apply
them (R45, R153, R156). -/

namespace Sys2Proof.Machine

/-- R153: all that a stop does as it is applied. -/
theorem State.applyStop_spec (u : State) (q : ControlRequest) (hq : u.sc.request = some q) (hm : u.tt.FifosMatch) :
   ∃ t, u.applyStop = t
      ∧ t.sc = { u.sc with
          engine := .config
          teardown := .none
          request := some { q with stage := .ready (answerTo q.record .control q.index .ok [] []) } }
      ∧ t.cs = u.cs.stop
      ∧ t.hm = { u.hm with safe := false } ∧ t.lc = u.lc
      ∧ t.fl = u.fl.endCauses
          ((allStations.filter fun k => (u.station k).state ≠ .unused).flatMap stationCauses
            ++ [(.holdExpired, 0)])
      ∧ TransactionTable.EndsWaiting { u.tt with ending := none } t.tt allStations (.ended .cyclesStopped)
      ∧ t.st.stateEvents = u.st.stateEvents
      ∧ (∀ k, t.station k = if (u.station k).state = .unused then u.station k else
          { (u.station k).confirmEnded (.ended .cyclesStopped) with
            state := .probing
            report := (u.station k).reportAfter u.st.stateEvents .probing
            restartTimer := none
            missCount := 0
            inputsValid := false })
      ∧ t.hqi = { u.hqi with readyList := u.hqi.readyList
          ++ u.confirmEntries (allStations.filter fun k => (u.station k).state ≠ .unused) }
      ∧ t.now = u.now ∧ t.bus = u.bus ∧ t.pending = u.pending := by
  obtain ⟨a1, a2⟩ := u.endAllSlots_ends (.ended .cyclesStopped) rfl hm
  unfold State.applyStop
  generalize State.endAllSlots (.ended .cyclesStopped) u = v at a1 a2
  obtain ⟨b1, b2, b3⟩ := State.foldl_stopStation allStations allStations_nodup v
  have hs : v.st = u.st := by rw [a1]
  have hst : ∀ k, v.station k = u.station k := fun k => State.station_congr hs k
  dsimp only at b1 b2 b3 ⊢
  generalize allStations.foldl State.stopStation v = w at b1 b2 b3
  have hwr : w.sc.request = some q := by rw [b1, a1]; exact hq
  rw [State.answer_of_request (q := q) (by exact hwr)]
  refine ⟨_, rfl, ?_, ?_, ?_, ?_, ?_, ?_, ?_, ?_, ?_, ?_, ?_, ?_⟩
  · rw [b1, a1]; rfl
  · rw [b1, a1]; rfl
  · rw [b1, a1]; rfl
  · rw [b1, a1]; rfl
  · rw [FaultList.endCauses_append]
    have : w.fl = u.fl.endCauses ((allStations.filter fun k => (u.station k).state ≠ .unused).flatMap stationCauses) := by
      rw [b1]; simp only [hst]; rw [a1]
    rw [← this]; rfl
  · have : w.tt = v.tt := by rw [b1]
    show TransactionTable.EndsWaiting { u.tt with ending := none } w.tt _ _
    rw [this]; exact a2
  · show w.st.stateEvents = _
    rw [b2, hs]
  · intro k
    show w.station k = _
    rw [b3 k, hst k, hs]
    by_cases h : (u.station k).state = .unused <;> simp [h, mem_allStations]
  · show w.hqi = _
    rw [b1]; simp only [hst]
    rw [State.confirmEntries_congr (s := u) (t := v) (fun k _ => by rw [hst k]), a1]
  all_goals (rw [b1, a1]; rfl)
/-- R156: all that a close does as it is applied. -/
theorem State.applyClose_spec (u : State) (q : ControlRequest) (hq : u.sc.request = some q)
    (hm : u.tt.FifosMatch) :
   ∃ t, u.applyClose = t
      ∧ t.sc = { u.sc with
          engine := .idle
          teardown := .none
          request := some { q with stage := .ready (answerTo q.record .control q.index .ok [] []) } }
      ∧ t.cs = u.cs.stop
      ∧ t.hm = { u.hm with safe := false } ∧ t.lc = u.lc.closeSession
      ∧ t.fl = (u.fl.endCause .holdExpired 0).endAll
      ∧ TransactionTable.EndsWaiting { u.tt with ending := none } t.tt allStations (.ended .sessionClosed)
      ∧ t.st.stateEvents = u.st.stateEvents
      ∧ (∀ k, t.station k = if (u.station k).state = .unused then u.station k else
          ((u.station k).confirmEnded (.ended .sessionClosed)).vacate)
      ∧ t.hqi = { u.hqi with
          threshold := 1
          delay := 0
          readyList := u.hqi.readyList
            ++ u.confirmEntries (allStations.filter fun k => (u.station k).state ≠ .unused) }
      ∧ t.now = u.now ∧ t.bus = u.bus ∧ t.pending = u.pending := by
  obtain ⟨a1, a2⟩ := u.endAllSlots_ends (.ended .sessionClosed) rfl hm
  unfold State.applyClose
  generalize State.endAllSlots (.ended .sessionClosed) u = v at a1 a2
  obtain ⟨b1, b2, b3⟩ := State.foldl_closeStation allStations allStations_nodup v
  have hs : v.st = u.st := by rw [a1]
  have hst : ∀ k, v.station k = u.station k := fun k => State.station_congr hs k
  dsimp only at b1 b2 b3 ⊢
  generalize allStations.foldl State.closeStation v = w at b1 b2 b3
  have hwr : w.sc.request = some q := by rw [b1, a1]; exact hq
  rw [State.answer_of_request (q := q) (by exact hwr)]
  refine ⟨_, rfl, ?_, ?_, ?_, ?_, ?_, ?_, ?_, ?_, ?_, ?_, ?_, ?_⟩
  · rw [b1, a1]; rfl
  · rw [b1, a1]; rfl
  · rw [b1, a1]; rfl
  · rw [b1, a1]; rfl
  · rw [b1, a1]; rfl
  · have : w.tt = v.tt := by rw [b1]
    show TransactionTable.EndsWaiting { u.tt with ending := none } w.tt _ _
    rw [this]; exact a2
  · show w.st.stateEvents = _
    rw [b2, hs]
  · intro k
    show w.station k = _
    rw [b3 k, hst k]
    by_cases h : (u.station k).state = .unused <;> simp [h, mem_allStations]
  · show { w.hqi with threshold := 1, delay := 0 } = _
    rw [b1]; simp only [hst]
    rw [State.confirmEntries_congr (s := u) (t := v) (fun k _ => by rw [hst k]), a1]
  all_goals (rw [b1, a1]; rfl)

/-- R45: all that a removal does as it is applied. -/
theorem State.removeStation_spec (s : State) (k : StationId) (hm : s.tt.FifosMatch) :
    ∃ tt, TransactionTable.EndsWaiting s.tt tt [k] (.station .removed)
      ∧ s.removeStation k = { s.withStation k ((s.station k).confirmEnded (.station .removed)).vacate.emptied with
        tt := tt
        fl := s.fl.endCauses (stationCauses k)
        hqi := { s.hqi with readyList := s.hqi.readyList ++ s.confirmEntries [k] } } := by
  obtain ⟨a1, a2⟩ := s.endStationSlots_ends (.station .removed) rfl k hm
  unfold State.removeStation
  generalize s.endStationSlots (.station .removed) k = v at a1 a2
  generalize v.tt = tt at a1 a2
  subst a1
  refine ⟨tt, a2, ?_⟩
  have hc : State.confirmEntries { s with tt := tt } [k] = s.confirmEntries [k] := rfl
  dsimp only
  rw [State.endConfirm_eq, hc]
  simp [State.endStationCauses_eq, State.updStation, State.withStation, State.station]

end Sys2Proof.Machine
end

