-- ==== Sys2Proof/Tests/Slice0.lean ====
section
/-! SUPPORT. Tests of the model against the manual's worked examples, and for every statement with
hypotheses a state and operands that meet them. -/

namespace Sys2Proof.Tests

open Sys2Proof Sys2Proof.Machine

-- One theorem after the other: each kernel evaluation in a thread of its own needs too many threads.
set_option Elab.async false

/-! ## Building states -/

/-- A record that begins with these bytes, the others 0. -/
def bytes64 (b : List Byte) : Record := Vector.ofFn fun i => b.getD i.val 0

/-- A request of a kind for station 1, with no data and parameter bytes 8 on as given. -/
def request (k : RequestKind) (params : List Byte) : Record :=
  bytes64 ([k.code, 0, 0x34, 0x12, 1, 0, 0, 0] ++ params)

def rings : RingAttachment where
  control := { base := 0x1000, count := 16 }
  transfer := { base := 0x2000, count := 16 }
  completion := { base := 0x3000, count := 16 }

def params : LineParams := { rate := .m2, responseTimeout := 50, gap := 4 }

/-- The part enabled, with rings of 16 entries, in an engine state, the line as it is there in a session. -/
def inEngine (e : EngineState) : State :=
  { State.reset with
    sc := { State.reset.sc with engine := e }
    hqi := { State.reset.hqi with enable := true, attachment := some rings }
    lc := { State.reset.lc with state := .idle, params := some params }
    tt := { State.reset.tt with attemptLimit := 2, waitLimit := 1 } }

/-- In RUN. -/
def running : State := inEngine .run

/-- The record is the control request in progress, at a stage. -/
def asked (r : Record) (stage : Stage) (s : State) : State :=
  { s with sc := { s.sc with request := some { record := r, index := 3, stage := stage } } }

/-- The record is the control request in progress, at stage APPLYING. -/
def asking (r : Record) (s : State) : State := asked r .applying s

/-- The control request of `asking`. -/
def asks (r : Record) : ControlRequest := { record := r, index := 3, stage := .applying }

/-- The record has been taken from the transfer ring. -/
def taking (r : Record) (s : State) : State :=
  { s with hqi := { s.hqi with taken := some { record := r, index := 5 } } }

/-- A station of 1 input and 1 output byte in a state. -/
def station (e : StationState) : Station :=
  { Station.reset with
    state := e, expectedType := 0xFFFF, inputSize := 1, outputSize := 1, missLimit := 3
    outputImage := [0x11], safeImage := [0], inputImage := [0], lastReported := [0], watchMask := [0xFF]
    change := { pending := false, inStaging := false, bits := [0], coalesce := 0 } }

/-- Station 1 in a state. -/
def withState (e : StationState) (s : State) : State := s.withStation 0 (station e)

/-- A slot of station 1 in a state. -/
def slot (kind : RemoteKind) (e : SlotState) : Slot :=
  { Slot.reset with
    state := e, kind := some kind, tag := 0x0D00, index := 17, station := some 0
    remoteAddress := some 0x0120, count := 4
    data := match kind with | .write => [1, 2, 3, 4] | .read | .restart => []
    form := if e = .onLink then some .frame else none
    backoffTimer := if e = .backoff then some 0 else none
    result := if e = .done then some { status := .ok, dataLength := 0 } else none }

/-- Slot 0 is the only slot in use. -/
def withSlot0 (x : Slot) (s : State) : State :=
  { s with tt := { s.tt with
      slots := s.tt.slots.set 0 x
      age := [0]
      fifos := if x.state = .done then s.tt.fifos else s.tt.fifos.set 0 [0]
      doneQueue := if x.state = .done then [0] else [] } }

/-- An exchange of station 1 is on the line. -/
def exchanging (x : InHand) (kind : FrameKind) (line : LineState) (s : State) : State :=
  { s with
    cs := { s.cs with inHand := some x, phase := .window, mode := .fixed }
    lc := { s.lc with
      state := line
      exchange := some { address := 1, kind := kind, toggle := false
                         dataLength := match kind with
                           | .poll => some 2 | .ident => some 5 | .paramRead => some 4
                           | .paramWrite | .restart | .sync => none } } }

/-- The response timer has run out. -/
def timedOut (s : State) : State := { s with lc := { s.lc with responseTimer := some 0 } }

/-- The bytes of a reply from station 1. -/
def reply (kind : Byte) (payload : List Byte) : List Byte :=
  let body := [0x21, kind, BitVec.ofNat 8 payload.length] ++ payload
  0xA5 :: body ++ halfBytes (crc body)

/-- All of a reply but its last byte has been received. -/
def almost (r : List Byte) (s : State) : State :=
  { s with lc := { s.lc with state := .receiving, rx := r.dropLast, responseTimer := some 10 } }

/-- The last byte of a reply. -/
def lastOf (r : List Byte) : OutcomeEvent := .character { data := r.getLastD 0, framingError := false }

/-- The state an outcome holds, for tests of one field. -/
def after (o : Host.Outcome State Fault Refusal) : State :=
  match o with
  | .next s => s
  | .fault _ | .refused _ => State.reset

/-! ## Well-formed terms -/

theorem test_wellFormed_enable : WellFormed (.enable 1) = true ∧ WellFormed (.enable 2) = false := by decide
theorem test_wellFormed_controllerReset :
    WellFormed (.controllerReset 2) = true ∧ WellFormed (.controllerReset 1) = false := by decide
theorem test_wellFormed_otherRegisterWrite :
    WellFormed (.otherRegisterWrite .id 0) = true ∧ WellFormed (.otherRegisterWrite .control 0) = false := by
  decide
theorem test_wellFormed_badRegisterAccess :
    WellFormed (.badRegisterAccess { write := true, offset := 0x28, width := 4, value := 0 }) = true
    ∧ WellFormed (.badRegisterAccess { write := true, offset := 0x24, width := 4, value := 0 }) = false
    ∧ WellFormed (.badRegisterAccess { write := true, offset := 0x24, width := 4, value := 0, inReset := true }) = true
    ∧ WellFormed (.badRegisterAccess { write := true, offset := 0x40, width := 4, value := 0, inReset := true }) = false := by
  decide
theorem test_wellFormed_characterDiscarded :
    WellFormed (.characterDiscardedInAwaiting { data := 0xA5, framingError := true }) = true
    ∧ WellFormed (.characterDiscardedInAwaiting { data := 0xA5, framingError := false }) = false := by decide

/-! ## No row has an encoding -/

theorem test_no_row_has_bits : decodeTableWord 32 0 = none := rfl

/-! ## Worked examples of the manual -/

/-- R4: the CRC of the nine bytes 31h to 39h is 29B1h. -/
theorem test_crc_nine_bytes :
    crc [0x31, 0x32, 0x33, 0x34, 0x35, 0x36, 0x37, 0x38, 0x39] = 0x29B1 := by decide +kernel

/-- R2: two byte times at 8 Mbit/s load 3 µs, 3 byte times there 4 µs, at 4 Mbit/s 8 µs, 9 bytes 23 µs. -/
theorem test_byte_times :
    BitRate.m8.byteTimes 2 = 3 ∧ BitRate.m8.byteTimes 3 = 4 ∧ BitRate.m4.byteTimes 3 = 8
    ∧ BitRate.m4.byteTimes 9 = 23 ∧ BitRate.k500.byteTimes 16 = 320 := by decide

/-- R59: the three worst-case times of the rule: 305, 225 and 94 µs. -/
theorem test_worst_case_times :
    (withSlot0 { slot .read .queued with count := 32 } running).worstCase 0 = 305
    ∧ (withSlot0 { slot .write .queued with data := List.replicate 16 0 } running).worstCase 0 = 225
    ∧ State.worstCase { withSlot0 { slot .write .queued with data := List.replicate 16 0 } running with
        lc := { running.lc with params := some { params with rate := .m8 } } } 0 = 94 := by decide +kernel

/-- Chapter Operating Sequences, AN UNCERTAIN WRITE: the resync IDENT's worst case is 155 µs. -/
theorem test_worst_case_resync :
    ((withSlot0 (slot .write .queued) running).withStation 0
      { station .active with resync := true }).worstCase 0 = 155 := by decide +kernel

/-- Chapter Record Formats and Codes, A REQUEST AND ITS COMPLETION. -/
theorem test_completion_bytes :
    (CompletionRecord.bytes {
      event := false, kind := 0x25, tag := 0x0C20, status := .ok, station := 0x0E, index := 5
      fromTransfer := true, controlHead := 9, transferHead := 6, count := 0, cycle := 0x203
      extra := [1, 0], data := [0x11, 0x22, 0x33, 0x44] } true).take 36
    = [0x81, 0x25, 0x20, 0x0C, 0, 0, 0x0E, 4, 5, 0x80, 9, 0, 6, 0, 0, 0, 3, 2, 0, 0, 1, 0, 0, 0, 0, 0, 0, 0, 0, 0,
       0, 0, 0x11, 0x22, 0x33, 0x44] := by decide +kernel

/-- R161, R162: STATUS after the two resets. -/
theorem test_status_after_resets :
    (State.resetBy .power).status = 0x40 ∧ (State.resetBy .controller).status = 0x80 := by decide +kernel

/-- Chapter Request Rings, POSTING ACROSS A WRAP: head 14 and tail 1 leave 3 unread, and 5 is off the span. -/
theorem test_unread_wraps :
    let s := { running with hqi := { running.hqi with completionHead := 14, completionTail := 1 } }
    s.hqi.unread = 3 ∧ (after (exec (.completionHeadWrite 5) s)).hqi.completionHeadMark = true
    ∧ (after (exec (.completionHeadWrite 1) s)).hqi.unread = 0 := by decide +kernel

/-- Chapter The Fault List, A FULL LIST: ACK_FAULT ALL removes 3, acknowledges 13 and counts 16 changes. -/
theorem test_acknowledge_all :
    let entry := fun (n : Nat) (ended : Bool) =>
      ({ kind := .stationError, station := n, detail := 1, ended := ended, acknowledged := false
         firstCycle := 0, lastCycle := 0, occurrences := 1 } : FaultEntry)
    let f := { FaultList.reset with
      entries := (List.range 16).map fun n => entry (n + 1) (decide (n < 3)), changes := 2 }
    (f.acknowledgeAll).1.entries.length = 13 ∧ (f.acknowledgeAll).1.changes = 18
    ∧ (f.acknowledgeAll).2 = (13, 3) := by decide +kernel

/-- Chapter The Station Link, A good poll: the frame of the POLL to station 3 is 11 bytes. -/
theorem test_poll_frame_length :
    (SendRequest.frame { address := 3, kind := .poll, toggle := false, payload := [0, 1, 2, 3, 4]
                         dataLength := some 7 }).length = 11 := by decide +kernel

/-- R58: candidates at 4, 9 and 22 with the pointer at 9 give 22; with 15 added, 15. -/
theorem test_next_probe :
    let s := ((running.withStation 3 (station .probing)).withStation 8 (station .lost)).withStation 21
      (station .mismatch)
    State.nextProbe { s with cs := { s.cs with probePointer := 9 } } = some 21
    ∧ State.nextProbe { s.withStation 14 (station .probing) with cs := { s.cs with probePointer := 9 } }
        = some 14 := by decide +kernel

/-- R55: with divisor 8, station 13 is due in cycles 5, 13 and 21 and not in 6. -/
theorem test_poll_due :
    pollDue 8 5 12 = true ∧ pollDue 8 13 12 = true ∧ pollDue 8 21 12 = true ∧ pollDue 8 6 12 = false := by
  decide

/-- R190: a period of 100001 fails at number 4, an options byte with bit 2 set at number 10. -/
theorem test_open_session_parameters :
    let good : List Byte := [2, 4, 50, 0, 0xE8, 3, 0, 0, 1, 1, 0, 0, 100, 0, 0, 0, 1, 0, 0, 0]
    (request .openSession good).sessionParams.firstBad = none
    ∧ (request .openSession (good.set 4 0xA1 |>.set 5 0x86 |>.set 6 1)).sessionParams.firstBad = some 4
    ∧ (request .openSession (good.set 11 4)).sessionParams.firstBad = some 10
    ∧ (request .openSession (good.set 0 5)).sessionParams.firstBad = some 1
    ∧ (request .openSession (good.set 2 19)).sessionParams.firstBad = some 2
    ∧ (request .openSession (good.set 19 0xFF)).sessionParams.firstBad = some 12 := by decide +kernel

/-! ## One step of a command -/

theorem test_enable_starts_descriptor_read :
    (after (exec (.enable 3) State.reset)).sc.descriptorRead = some 0 := by decide +kernel
theorem test_controller_reset_clears_control :
    (after (exec (.controllerReset 2) running)).readRegister .control = 0 := by decide +kernel
theorem test_delimiter_begins_reply :
    (after (exec .replyDelimiter (exchanging (.poll 0) .poll .awaiting running))).lc.state = .receiving := by
  decide +kernel
theorem test_response_timeout_degrades :
    ((after (exec .responseTimeout (timedOut (withState .active
      (exchanging (.poll 0) .poll .awaiting running))))).station 0).state = .degraded := by decide +kernel
theorem test_write_done_flips_toggle :
    let s := withSlot0 (slot .write .onLink) (withState .active
      (exchanging (.attempt 0 0) .paramWrite .awaiting running))
    let r := reply 0x82 []
    ((after (exec (rowOf (lastOf r)) (almost r s))).station 0).toggle = true := by decide +kernel
theorem test_uncertain_write_sets_resync :
    let x := { slot .write .onLink with attemptCount := 1 }
    let s := withSlot0 x (withState .active (exchanging (.attempt 0 0) .paramWrite .awaiting running))
    ((after (exec .responseTimeout (timedOut s))).station 0).resync = true := by decide +kernel
theorem test_hold_expiry_raises_fault :
    (after (exec .holdTimerExpiry (withState .active
      { running with hm := { running.hm with holdTime := 10, timer := some 0 } }))).fl.entries.map (·.detail)
    = [1] := by decide +kernel
theorem test_backoff_expiry_requeues :
    ((after (exec (.backoffExpiry 0) (withSlot0 (slot .read .backoff) running))).slot 0).state = .queued := by
  decide +kernel

/-! ## Witnesses: steps, resets, the host bus and the rings -/

/-- The state with one field of its host queue interface changed. -/
def withQueue (f : HostQueue → HostQueue) (s : State) : State := { s with hqi := f s.hqi }

/-- A fetch at the head of a ring of `running`. -/
def fetching (ring : SubmissionRing) (withdrawn : Bool) : HostQueue → HostQueue := fun h =>
  { h with fetch := some { ring := ring, index := 0, withdrawn := withdrawn } }

/-- One record pending in a submission ring. -/
def pendingRecord : SubmissionRing → HostQueue → HostQueue
  | .control => fun h => { h with controlTail := 1 }
  | .transfer => fun h => { h with transferTail := 1 }

/-- An event record with no data. -/
def eventRecord : CompletionRecord where
  event := true
  kind := 3
  tag := 0
  status := .ok
  station := 0
  index := 0
  fromTransfer := false
  controlHead := 0
  transferHead := 0
  count := 1
  cycle := 0
  extra := [0, 0, 0, 0]
  data := []

/-- Records of an owner in staging. -/
def staging (owners : List Owner) : HostQueue → HostQueue := fun h =>
  { h with staging := owners.map fun o => { record := eventRecord, owner := o } }

theorem witness_StepRunsFrontCommand :
    ({ running with pending := [.postStart, .fetchStart] } : State).pending = .postStart :: [.fetchStart] := rfl

theorem witness_EmptyQueueTicksTimebase :
    ((inEngine .halted).pending = [] ∧ (inEngine .halted).sc.engine = .halted)
    ∧ ((timedOut running).pending = [] ∧ (timedOut running).sc.engine ≠ .halted
      ∧ some 0 ∈ (timedOut running).timers)
    ∧ (let s := { running with hm := { running.hm with timer := some 1 } }
      s.pending = [] ∧ s.sc.engine ≠ .halted ∧ some 0 ∉ s.timers ∧ some 1 ∈ s.timers) := by decide +kernel

/-- A read at an offset while RESET_N is low. -/
def readsInReset (offset : Nat) : SlaveAccess :=
  { write := false, offset := offset, width := 4, value := 0, inReset := true }

theorem witness_PowerOnResetValues :
    (∀ a ∈ [readsInReset 0, readsInReset 0x24], a.inReset = true ∧ a.offset < 0x40
      ∧ a.width = 4 ∧ a.offset % 4 = 0 ∧ a.offset < 0x28)
    ∧ ∀ a ∈ [readsInReset 0x28, readsInReset 0x3F], a.inReset = true ∧ a.offset < 0x40 ∧ ¬ a.offset < 0x28 := by
  decide

/-- R165: while RESET_N is held low the ID register reads 0, and a write of CONTROL enables nothing. -/
theorem test_accesses_in_reset :
    (after (exec (.badRegisterAccess (readsInReset 0)) running)).bus = .read 0
    ∧ (after (exec (.badRegisterAccess { readsInReset 4 with write := true, value := 1 }) running)).hqi.enable
      = false := by decide +kernel

/-- R89: the hold timer stops at entry into HALTED. -/
theorem test_halt_stops_hold_timer :
    (after (exec .masterPortError (withQueue (fetching .control false)
      { running with hm := { running.hm with holdTime := 10, timer := some 7 } }))).hm.timer = none := by
  decide +kernel

/-- R64: a cycle that makes no exchange has its start time as activity end time. -/
theorem test_empty_cycle_ends_at_its_start :
    (after (exec .startCycles (asking (request .startCycles []) { inEngine .config with now := 40 }))).cs.activityEnd
    = some 40 := by decide +kernel

theorem witness_ControlWriteEnablesResetsOrMasks :
    (Instr.enable 1 ∈ controlWrites 1 ∧ State.reset.hqi.enable = false ∧ (1 : Word).getLsbD 0 = true)
    ∧ (Instr.controllerReset 2 ∈ controlWrites 2 ∧ running.hqi.enable = true ∧ (2 : Word).getLsbD 0 = false)
    ∧ (Instr.intEnableWrite 3 ∈ controlWrites 3 ∧ (3 : Word).getLsbD 0 = running.hqi.enable)
    ∧ (2 : Word).getLsbD 0 = State.reset.hqi.enable := by decide +kernel

theorem witness_SubmissionTailWriteJudged :
    State.reset.sc.engine = .off
    ∧ running.hqi.attachment = some rings ∧ running.sc.engine ≠ .off
    ∧ rings.control.count ≤ (16 : Word).toNat ∧ rings.transfer.count ≤ (0xFFFFFFFF : Word).toNat
    ∧ (running.hqi.controlHead < rings.control.count ∧ (15 : Word).toNat < rings.control.count)
    ∧ (running.hqi.transferHead < rings.transfer.count ∧ (0 : Word).toNat < rings.transfer.count) := by
  decide +kernel

/-- Head 14 and tail 1: three unread records. -/
def wrapped : State := withQueue (fun h => { h with completionHead := 14, completionTail := 1 }) running

theorem witness_CompletionHeadWriteJudged :
    let n := rings.completion.count
    let fromHead := fun i => (i + n - wrapped.hqi.completionHead) % n
    State.reset.sc.engine = .off
    ∧ wrapped.hqi.attachment = some rings ∧ wrapped.sc.engine ≠ .off
    ∧ wrapped.hqi.completionHead < n ∧ wrapped.hqi.completionTail < n
    ∧ n ≤ (16 : Word).toNat ∧ fromHead wrapped.hqi.completionTail < fromHead (2 : Word).toNat
    ∧ fromHead wrapped.hqi.completionTail < fromHead (13 : Word).toNat
    ∧ ((14 : Word).toNat < n ∧ fromHead (14 : Word).toNat ≤ fromHead wrapped.hqi.completionTail
      ∧ (14 : Word).toNat ≠ wrapped.hqi.completionTail)
    ∧ ((0 : Word).toNat < n ∧ fromHead (0 : Word).toNat ≤ fromHead wrapped.hqi.completionTail
      ∧ (0 : Word).toNat ≠ wrapped.hqi.completionTail)
    ∧ (1 : Word).toNat = wrapped.hqi.completionTail := by decide +kernel

theorem witness_OtherAccessesAnswered :
    Register.status ∈ [Register.id, .status, .controlHead, .transferHead, .completionTail]
    ∧ ∀ a ∈ ([{ write := true, offset := 0x28, width := 4, value := 0 },
        { write := false, offset := 0x3F, width := 4, value := 0 },
        { write := true, offset := 0, width := 2, value := 0 },
        { write := true, offset := 2, width := 4, value := 0 }] : List SlaveAccess),
      a.inReset = false ∧ a.offset < 0x40 ∧ (a.width ≠ 4 ∨ a.offset % 4 ≠ 0 ∨ 0x28 ≤ a.offset) := by decide

theorem witness_OtherAccessesAnswered_reads :
    wrapped.hqi.controlTail < 1024 ∧ wrapped.hqi.transferTail < 1024 ∧ wrapped.hqi.completionHead < 1024
    ∧ wrapped.hqi.controlHead < 1024 ∧ wrapped.hqi.transferHead < 1024 ∧ wrapped.hqi.completionTail < 1024
    ∧ wrapped.fl.entries.length ≤ 16 ∧ ∀ e ∈ wrapped.fl.entries, e.station ≤ 31 := by decide +kernel

/-- STATUS in RUN with three unread records, SAFE set, the index error set and STATION_LOST of station 31 at the
head, by the table of chapter Record Formats and Codes, THE REGISTER WINDOW. -/
theorem test_status_fields :
    State.status { withQueue (fun h => { h with transferTailMark := true }) wrapped with
      hm := { wrapped.hm with safe := true }
      fl := { FaultList.reset with overflow := 2, entries := [
        { kind := .stationLost, station := 31, detail := 1, ended := true, acknowledged := false
          firstCycle := 0, lastCycle := 0, occurrences := 1 }] } }
    = 0x1F01E14B := by decide +kernel

/-- A descriptor block: the control ring's base and count, the others 0 and 1024. -/
def descriptor (base count : List Byte) : Vector Byte 24 :=
  Vector.ofFn fun i => (base ++ count ++ [0, 0, 0, 0, 0, 4, 0, 0, 0, 0, 0, 0, 0, 4, 0, 0]).getD i.val 0

theorem witness_DescriptorReadJudged :
    let s := { State.reset with sc := { State.reset.sc with descriptorRead := some 0 } }
    s.sc.engine = .off ∧ s.sc.descriptorRead.isSome = true
    ∧ descriptorValid (descriptor [0x40, 0, 0, 0] [16, 0, 0, 0])
    ∧ ¬ descriptorValid (descriptor [0x20, 0, 0, 0] [16, 0, 0, 0])
    ∧ ¬ descriptorValid (descriptor [0x40, 0, 0, 0] [16, 0, 1, 0]) := by
  unfold descriptorValid; decide +kernel

theorem witness_FetchStartServesControlFirst_waits :
    (inEngine .halted).sc.engine.serving = false
    ∧ (withQueue (fetching .control false) running).hqi.fetch ≠ none
    ∧ (let s := withQueue (staging [.fault] ∘ pendingRecord .control) running;
      s.sc.engine.serving = true ∧ s.hqi.fetch = none ∧ s.hqi.post = none
      ∧ ¬ (s.hqi.staging = [] ∨ s.hqi.ringFull = true)) := by decide +kernel

theorem witness_FetchStartServesControlFirst_fetches :
    let control := fun s : State => 1 ≤ s.hqi.controlPending ∧ s.sc.request = none
    let transfer := fun s : State => 1 ≤ s.hqi.transferPending ∧ s.hqi.heldCopy = none ∧ s.hqi.nonSlot = none
      ∧ s.hqi.taken = none
    (∀ ring ∈ [SubmissionRing.control, .transfer],
      (withQueue (pendingRecord ring) running).sc.engine.serving = true
      ∧ (withQueue (pendingRecord ring) running).hqi.fetch = none
      ∧ (withQueue (pendingRecord ring) running).hqi.post = none
      ∧ (withQueue (pendingRecord ring) running).hqi.staging = [])
    ∧ control (withQueue (pendingRecord .control) running)
    ∧ ¬ control (withQueue (pendingRecord .transfer) running)
    ∧ transfer (withQueue (pendingRecord .transfer) running)
    ∧ ¬ control running ∧ ¬ transfer running := by decide +kernel

/-- Every slot in use. -/
def slotsFull (s : State) : State :=
  { s with tt := { s.tt with slots := Vector.replicate 12 (slot .read .onLink) } }

/-- Station 1 ACTIVE with a confirm result to be posted. -/
def withResult (s : State) : State :=
  s.withStation 0 { station .active with results := [{ tag := 7, index := 2, status := .ok }] }

theorem witness_FetchEndTakesHoldsOrDiscards_discards :
    (withQueue (fetching .control true) running).hqi.attachment = some rings
    ∧ (withQueue (fetching .control true) running).hqi.fetch
      = some { ring := .control, index := 0, withdrawn := true }
    ∧ (withQueue (fetching .transfer false) running).hqi.pendingIn .transfer = 0 := by decide +kernel

theorem witness_FetchEndTakesHoldsOrDiscards_takes :
    (∀ ring ∈ [SubmissionRing.control, .transfer],
      let s := withQueue (fetching ring false ∘ pendingRecord ring) running
      s.hqi.attachment = some rings ∧ s.hqi.fetch = some { ring := ring, index := 0, withdrawn := false }
      ∧ 1 ≤ s.hqi.pendingIn ring)
    ∧ ¬ (withQueue (fetching .transfer false ∘ pendingRecord .transfer) running).Holds (request .remoteRead []) := by
  unfold State.Holds; decide +kernel

theorem witness_FetchEndTakesHoldsOrDiscards_holds :
    (∀ s ∈ [slotsFull running], (withQueue (fetching .transfer false ∘ pendingRecord .transfer) s).Holds
      (request .restartStation []))
    ∧ (withQueue (fetching .transfer false ∘ pendingRecord .transfer) (withResult running)).Holds
      (request .writeOutputs [])
    ∧ (let h := fun s => withQueue (fun h => { h with heldCopy := some (request .writeOutputs []) }) s
      (h running).hqi.heldCopy = some (request .writeOutputs [])
      ∧ (h (withResult running)).Holds (request .writeOutputs [])
      ∧ ¬ (h running).Holds (request .writeOutputs [])) := by
  unfold State.Holds; decide +kernel

/-- A record with kind, station and length bytes as given. -/
def checked (kind station length : Byte) : Record := bytes64 [kind, 0, 1, 0, station, length]

/-- The kind byte is a control request's, a transfer request's, one that names a station. -/
def codes (r : Record) : Bool × Bool × Bool :=
  (decide (0x01 ≤ r[0].toNat ∧ r[0].toNat ≤ 0x0C), decide (0x21 ≤ r[0].toNat ∧ r[0].toNat ≤ 0x27),
    decide (r[0].toNat ∈ [0x05, 0x06, 0x0B, 0x21, 0x22, 0x23, 0x25, 0x26, 0x27]))

/-- The station byte is a station's, the length byte is above 32. -/
def fields (r : Record) : Bool × Bool :=
  (decide (1 ≤ r[4].toNat ∧ r[4].toNat ≤ 31), decide (32 < r[5].toNat))

theorem witness_CommonChecksRefuseInOrder :
    (asking (checked 0 0 0) running).sc.request = some (asks (checked 0 0 0))
    ∧ (taking (checked 0 0 0) running).hqi.taken = some { record := checked 0 0 0, index := 5 }
    ∧ ([0, 0x01, 0x05, 0x0C, 0x0D, 0x20, 0x21, 0x24, 0x27, 0x28].map fun k => codes (checked k 0 0))
      = [(false, false, false), (true, false, false), (true, false, true), (true, false, false),
        (false, false, false), (false, false, false), (false, true, true), (false, true, false),
        (false, true, true), (false, false, false)]
    ∧ fields (checked 5 0 0) = (false, false) ∧ fields (checked 5 32 0) = (false, false)
    ∧ fields (checked 5 1 33) = (true, true) ∧ fields (checked 5 31 32) = (true, false) := by decide +kernel

/-- A completion of a transfer request. -/
def answer : Completion := answerTo (request .readInputs []) .transfer 5 .ok [] [1]

theorem witness_GrantsServeCompletionsInOrder_request :
    (inEngine .halted).sc.engine.serving = false
    ∧ 8 ≤ (withQueue (staging (List.replicate 8 .request)) running).hqi.staging.length
    ∧ (withQueue (staging (List.replicate 7 .request)) running).hqi.staging.length < 8
    ∧ running.sc.engine.serving = true
    ∧ (asked (request .readStats []) (.ready answer) running).sc.request
      = some { record := request .readStats [], index := 3, stage := .ready answer } := by decide +kernel

/-- A state in which no control request is in progress has none READY. -/
theorem noneReady_of_none {s : State} (h : s.sc.request = none) : s.NoneReady := by
  intro q c hq; rw [h] at hq; cases hq

theorem witness_GrantsServeCompletionsInOrder_done :
    let s := withSlot0 (slot .read .done) running
    s.NoneReady ∧ s.tt.doneQueue = 0 :: [] ∧ (s.slot 0).kind = some .read ∧ (s.slot 0).station = some 0
    ∧ (s.slot 0).result = some { status := .ok, dataLength := 0 } :=
  ⟨noneReady_of_none rfl, by decide +kernel⟩

theorem witness_GrantsServeCompletionsInOrder_ready :
    (let s := withQueue (fun h => { h with readyList := [.nonSlot], nonSlot := some answer }) running;
      s.NoneReady ∧ s.tt.doneQueue = [] ∧ s.hqi.readyList = .nonSlot :: [] ∧ s.hqi.nonSlot = some answer)
    ∧ (let s := withResult (withQueue (fun h => { h with readyList := [.confirm 0] }) running)
      s.NoneReady ∧ s.tt.doneQueue = [] ∧ s.hqi.readyList = .confirm 0 :: []
      ∧ (s.station 0).results = { tag := 7, index := 2, status := .ok } :: []) :=
  ⟨⟨noneReady_of_none rfl, by decide +kernel⟩, ⟨noneReady_of_none rfl, by decide +kernel⟩⟩

/-- An active fault entry of station 1. -/
def fault (ended acknowledged : Bool) : FaultEntry where
  kind := .stationLost
  station := 1
  detail := 1
  ended := ended
  acknowledged := acknowledged
  firstCycle := 2
  lastCycle := 3
  occurrences := 1

/-- A state with one fault entry and a FAULT event pending that carries the last change as given. -/
def faulted (entries : List FaultEntry) (carried : Carried) (s : State) : State :=
  { s with fl := { FaultList.reset with entries := entries, pending := true, changes := 1, carried := carried } }

/-- What every clause of GrantsServeEventsInOrder asks. -/
def EventsNext (s : State) : Prop :=
  s.sc.engine.serving = true ∧ s.hqi.staging.length < 8 ∧ s.NoneReady ∧ s.tt.doneQueue = []
    ∧ s.hqi.readyList = []

theorem witness_GrantsServeEventsInOrder_safe :
    let s := { running with hm := { running.hm with event := { pending := true, inStaging := false, count := 1 } } }
    EventsNext s ∧ s.hm.event.pending = true :=
  ⟨⟨rfl, by decide +kernel, noneReady_of_none rfl, rfl, rfl⟩, rfl⟩

theorem witness_GrantsServeEventsInOrder_fault :
    (let s := faulted [] .none running;
      EventsNext s ∧ s.hm.event.pending = false ∧ s.fl.pending = true ∧ s.fl.carried = .none)
    ∧ (let s := faulted [fault false false] (.entry .stationLost 1) running;
      EventsNext s ∧ s.fl.Sound ∧ s.fl.carried = .entry .stationLost 1
      ∧ s.fl.entries[0]? = some (fault false false) ∧ (fault false false).kind = .stationLost
      ∧ (fault false false).station = 1)
    ∧ (let s := faulted [] (.removed (fault true true) 0) running;
      EventsNext s ∧ s.fl.pending = true ∧ s.fl.carried = .removed (fault true true) 0) := by
  refine ⟨⟨⟨rfl, by decide +kernel, noneReady_of_none rfl, rfl, rfl⟩, rfl, rfl, rfl⟩,
    ⟨⟨rfl, by decide +kernel, noneReady_of_none rfl, rfl, rfl⟩, ?_, rfl, rfl, rfl, rfl⟩,
    ⟨⟨rfl, by decide +kernel, noneReady_of_none rfl, rfl, rfl⟩, rfl, rfl⟩⟩
  unfold FaultList.Sound; decide +kernel

theorem witness_GrantsServeEventsInOrder_station :
    (let s := running.withStation 6 { station .active with
        report := { pending := true, inStaging := false, transitions := 1 } };
      EventsNext s ∧ s.hm.event.pending = false ∧ s.fl.pending = false
      ∧ IsFirst (fun j => (s.station j).report.pending = true) 6)
    ∧ (let s := running.withStation 30 { station .active with
        change := { pending := true, inStaging := false, bits := [4], coalesce := 0 } };
      EventsNext s ∧ s.hm.event.pending = false ∧ s.fl.pending = false
      ∧ (∀ j, (s.station j).report.pending = false)
      ∧ IsFirst (fun j => (s.station j).change.pending = true) 30)
    ∧ (EventsNext running ∧ running.hm.event.pending = false ∧ running.fl.pending = false
      ∧ (∀ j, (running.station j).report.pending = false) ∧ ∀ j, (running.station j).change.pending = false) := by
  refine ⟨⟨⟨rfl, by decide +kernel, noneReady_of_none rfl, rfl, rfl⟩, ?_⟩,
    ⟨⟨rfl, by decide +kernel, noneReady_of_none rfl, rfl, rfl⟩, ?_⟩,
    ⟨⟨rfl, by decide +kernel, noneReady_of_none rfl, rfl, rfl⟩, ?_⟩⟩ <;> (try unfold IsFirst) <;> decide +kernel

theorem witness_CompletionRecordBytes :
    let r := { eventRecord with
      extra := List.replicate 12 1, data := List.replicate 32 2, controlHead := 1023, transferHead := 65535 }
    r.extra.length ≤ 12 ∧ r.data.length ≤ 32 ∧ r.controlHead < 65536 ∧ r.transferHead < 65536 := by
  decide +kernel

theorem witness_PostStartsAtCompletionTail :
    (let s := withQueue (staging [.request]) running;
      s.hqi.attachment = some rings ∧ s.sc.engine.serving = true ∧ s.hqi.post = none ∧ s.hqi.fetch = none
      ∧ s.hqi.staging = { record := eventRecord, owner := .request } :: []
      ∧ (s.hqi.completionTail + 1) % rings.completion.count ≠ s.hqi.completionHead)
    ∧ (let s := withQueue (fun h => staging [.request] { h with completionTail := 15 }) running;
      s.hqi.attachment = some rings
      ∧ (s.hqi.completionTail + 1) % rings.completion.count = s.hqi.completionHead)
    ∧ (running.hqi.attachment = some rings ∧ running.hqi.staging = []) := by decide +kernel

theorem witness_PostEndAdvancesAndTellsOwner :
    ∀ o ∈ [Owner.request, .safe, .fault, .stationState 30, .change 0],
      let s := withQueue (fun h => staging [o, .fault] { h with
        post := some { address := 0x3000, bytes := eventRecord.bytes true } }) running
      s.hqi.attachment = some rings ∧ s.sc.engine.serving = true ∧ s.hqi.post ≠ none
      ∧ s.hqi.staging = { record := eventRecord, owner := o } :: [{ record := eventRecord, owner := .fault }] := by
  decide +kernel

theorem witness_AgeExpiryAssertsInterrupt :
    (let s := withQueue (fun h => { h with ageTimer := some 0 }) wrapped;
      s.hqi.ageTimer = some 0 ∧ 1 ≤ s.hqi.unread)
    ∧ running.hqi.unread = 0 ∧ (withQueue (fun h => { h with ageTimer := some 1 }) wrapped).hqi.ageTimer ≠ some 0 := by
  decide +kernel

theorem witness_MasterPortErrorHalts :
    State.reset.sc.engine = .off
    ∧ (running.sc.engine.serving = true ∧ running.hqi.fetch = none ∧ running.hqi.post = none)
    ∧ (let s := withQueue (fetching .control false) running;
      s.sc.engine.serving = true ∧ s.hqi.fetch ≠ none)
    ∧ (let s := withQueue (fun h => { h with post := some { address := 0, bytes := [] } }) running;
      s.sc.engine.serving = true ∧ s.hqi.fetch = none ∧ s.hqi.post ≠ none) := by decide +kernel

/-! ## Witnesses: requests -/

/-- A request for station 1: its flags, data length, bytes from parameter A on, and data field. -/
def requestOf (k : RequestKind) (flags length : Byte) (params data : List Byte) : Record :=
  Vector.ofFn fun i => if i.val < 32 then ([k.code, flags, 0x34, 0x12, 1, length] ++ params).getD i.val 0
    else data.getD (i.val - 32) 0

/-- A control request of `request` passes the common checks. -/
theorem applies (k : RequestKind) (p : List Byte) (s : State) (h : k.ring = .control) :
    (asking (request k p) s).Applies k (asks (request k p)) := by
  have h0 : (request k p)[0] = k.code := by simp [request, bytes64]
  have h4 : (request k p)[4] = 1 := by simp [request, bytes64]
  have h5 : (request k p)[5] = 0 := by simp [request, bytes64]
  have kind : (request k p).kind = some k := by
    simp only [Record.kind, Record.kindByte, h0]; cases k <;> rfl
  refine ⟨rfl, rfl, ?_, kind⟩
  show (request k p).commonCheck .control = none
  simp [Record.commonCheck, kind, h, Record.station, Record.stationByte, Record.dataLength, h4, h5, stationAt]

/-- A taken record that passes the common checks. -/
theorem takes {r : Record} {k : RequestKind} (s : State) (h : r.commonCheck .transfer = none)
    (h' : r.kind = some k) : (taking r s).Takes k { record := r, index := 5 } := ⟨rfl, h, h'⟩

theorem witness_ControlRequestsGatedByEngine :
    (∀ k ∈ [RequestKind.closeSession, .configureStation, .removeStation, .readStation, .readStats, .abort],
      (asking (request k []) (inEngine .idle)).Applies k (asks (request k []))
      ∧ (inEngine .idle).sc.engine ∉ [EngineState.config, .run])
    ∧ (asking (request .openSession []) (inEngine .config)).Applies .openSession (asks (request .openSession []))
    ∧ (inEngine .config).sc.engine ∉ [EngineState.idle]
    ∧ (asking (request .startCycles []) running).Applies .startCycles (asks (request .startCycles []))
    ∧ running.sc.engine ∉ [EngineState.config]
    ∧ (asking (request .stopCycles []) (inEngine .config)).Applies .stopCycles (asks (request .stopCycles []))
    ∧ (inEngine .config).sc.engine ∉ [EngineState.run]
    ∧ (∀ k ∈ [RequestKind.ackFault, .readFaults, .resume],
      (asking (request k []) (inEngine .closing)).Applies k (asks (request k []))
      ∧ (inEngine .closing).sc.engine ∉ [EngineState.idle, .config, .run]) := by
  refine ⟨fun k hk => ⟨applies _ _ _ ?_, by decide⟩, applies _ _ _ rfl, by decide, applies _ _ _ rfl, by decide,
    applies _ _ _ rfl, by decide, fun k hk => ⟨applies _ _ _ ?_, by decide⟩⟩ <;>
  fin_cases hk <;> rfl

/-- Bytes 8 to 27 of an OPEN_SESSION with every parameter in range. -/
def sessionBytes : List Byte := [2, 4, 50, 0, 0xE8, 3, 0, 0, 1, 1, 0, 0, 100, 0, 0, 0, 1, 0, 0, 0]

/-- The twelve conditions of R190, as a list of truth values. -/
def sessionConditions (r : Record) : List Bool :=
  let p := fieldAt r
  [p 8 1 ≤ 4, 20 ≤ p 10 2 ∧ p 10 2 ≤ 5000, 2 ≤ p 9 1 ∧ p 9 1 ≤ 16,
    p 12 4 = 0 ∨ (200 ≤ p 12 4 ∧ p 12 4 ≤ 100000), 1 ≤ p 16 1 ∧ p 16 1 ≤ 8, 1 ≤ p 17 1 ∧ p 17 1 ≤ 8,
    p 18 1 ≤ 15, 100 ≤ p 20 2 ∧ p 20 2 ≤ 25500, p 22 2 = 0 ∨ (10 ≤ p 22 2 ∧ p 22 2 ≤ 60000),
    p 19 1 < 4, 1 ≤ p 24 1 ∧ p 24 1 ≤ 64, p 26 2 ≤ 10000]

theorem witness_OpenSessionJudgesParameters :
    (∀ b, (asking (request .openSession b) (inEngine .idle)).Applies .openSession (asks (request .openSession b)))
    ∧ (inEngine .idle).sc.engine = .idle
    ∧ sessionConditions (request .openSession sessionBytes) = List.replicate 12 true
    ∧ sessionConditions (request .openSession (sessionBytes.set 0 5)) = false :: List.replicate 11 true
    ∧ sessionConditions (request .openSession (sessionBytes.set 19 0xFF)) = List.replicate 11 true ++ [false]
    ∧ ([BitRate.k500, .m1, .m2, .m4, .m8][fieldAt (request .openSession sessionBytes) 8 1]? = some .m2) :=
  ⟨fun _ => applies _ _ _ rfl, by decide +kernel⟩

/-- Stations 5 and 9 PROBING, in CONFIG. -/
def twoProbing : State :=
  ((inEngine .config).withStation 8 (station .probing)).withStation 4 (station .probing)

theorem witness_StartCyclesBeginsCycleZero :
    (asking (request .startCycles []) twoProbing).Applies .startCycles (asks (request .startCycles []))
    ∧ (let s := asking (request .startCycles []) twoProbing;
      s.sc.engine = .config ∧ s.cs.mode = .fixed ∧ s.lc.state = .idle
      ∧ (∀ k, (s.station k).inService = false ∧ (s.station k).removePending = false
        ∧ (s.station k).state ∈ [.unused, .probing])
      ∧ IsFirst (fun j => (s.station j).state = .probing) 4)
    ∧ ({ twoProbing with cs := { twoProbing.cs with mode := .freeRun } } : State).cs.mode = .freeRun
    ∧ ({ twoProbing with lc := { twoProbing.lc with state := .gap } } : State).lc.state = .gap :=
  ⟨applies _ _ _ rfl, by unfold IsFirst; decide +kernel⟩

/-- A POLL of station 1 is on the line. -/
def polling (s : State) : State := exchanging (.poll 0) .poll .awaiting (withState .active s)

theorem witness_StopAndCloseWaitForLine :
    (polling running).cs.inHand ≠ none
    ∧ (asking (request .stopCycles []) (polling running)).Applies .stopCycles (asks (request .stopCycles []))
    ∧ (polling running).sc.engine = .run
    ∧ (asking (request .closeSession []) (polling running)).Applies .closeSession (asks (request .closeSession [])) :=
  ⟨by decide +kernel, applies _ _ _ rfl, rfl, applies _ _ _ rfl⟩

/-- Two slots of station 1, the first waiting. -/
def withTwoSlots (e : SlotState) (s : State) : State :=
  { s with tt := { s.tt with
      slots := (s.tt.slots.set 0 (slot .write e)).set 3 (slot .read .queued)
      age := [3, 0]
      fifos := s.tt.fifos.set 0 [3, 0] } }

/-- A state with a teardown to be applied. -/
def tearing (t : Teardown) (s : State) : State := { s with sc := { s.sc with teardown := t } }

theorem witness_StopAppliedResetsTheCycle :
    (let s := asking (request .stopCycles []) (withTwoSlots .backoff (withState .active running));
      s.SlotsSound ∧ s.Applies .stopCycles (asks (request .stopCycles [])) ∧ s.sc.engine = .run
      ∧ s.cs.inHand = none)
    ∧ (let s := tearing .stop (asked (request .stopCycles []) (.waiting true)
        (withTwoSlots .queued (withState .degraded running)));
      s.SlotsSound
      ∧ s.sc.request = some { record := request .stopCycles [], index := 3, stage := .waiting true }
      ∧ s.sc.teardown = .stop) := by
  refine ⟨⟨?_, applies _ _ _ rfl, rfl, rfl⟩, ⟨?_, rfl, rfl⟩⟩ <;> (unfold State.SlotsSound; decide +kernel)

theorem witness_CloseAppliedVacatesStations :
    (let s := asking (request .closeSession []) (withState .probing (inEngine .config));
      s.SlotsSound ∧ s.Applies .closeSession (asks (request .closeSession []))
      ∧ s.sc.engine ∈ [EngineState.config, .run] ∧ s.cs.inHand = none)
    ∧ (let s := tearing .close (asked (request .closeSession []) (.waiting true)
        (withTwoSlots .queued (withState .mismatch (inEngine .closing))));
      s.SlotsSound
      ∧ s.sc.request = some { record := request .closeSession [], index := 3, stage := .waiting true }
      ∧ s.sc.teardown = .close) := by
  refine ⟨⟨?_, applies _ _ _ rfl, by decide, rfl⟩, ⟨?_, rfl, rfl⟩⟩ <;> (unfold State.SlotsSound; decide +kernel)

/-- A CONFIGURE_STATION of station 1 with 16 input bytes and 1 output byte, its divisor, and its safe image. -/
def configures (divisor length : Byte) : Record :=
  requestOf .configureStation 0 length [0, 0, 0x34, 0x12, 16, 1, divisor, 15, 255] [0xAA]

theorem witness_ConfigureStationJudged :
    let good := fun r : Record => let p := fieldAt r
      p 10 1 ≤ 16 ∧ p 11 1 ≤ 16 ∧ p 12 1 ∈ [1, 2, 4, 8] ∧ (1 ≤ p 13 1 ∧ p 13 1 ≤ 15) ∧ 1 ≤ p 14 1
    (∀ r ∈ [configures 8 1, configures 3 1, configures 8 0], ∀ s,
      (asking r s).Applies .configureStation (asks r) ∧ r[4].toNat = (0 : StationId).val + 1)
    ∧ (inEngine .idle).sc.engine ∉ [EngineState.config, .run] ∧ running.sc.engine ∈ [EngineState.config, .run]
    ∧ ((withState .lost running).station 0).state ≠ .unused ∧ (running.station 0).state = .unused
    ∧ ¬ good (configures 3 1) ∧ good (configures 8 1) ∧ good (configures 8 0)
    ∧ fieldAt (configures 8 1) 5 1 = fieldAt (configures 8 1) 11 1
    ∧ fieldAt (configures 8 0) 5 1 ≠ fieldAt (configures 8 0) 11 1 := by
  refine ⟨fun r hr s => ?_, by decide +kernel⟩
  fin_cases hr <;> exact ⟨⟨rfl, rfl, by decide +kernel, by decide +kernel⟩, by decide +kernel⟩

/-- A list with an ACTIVE entry, an acknowledged one and an ENDED one. -/
def mixed : List FaultEntry := [fault false false, { fault false true with station := 2 },
  { fault true false with station := 3 }]

theorem witness_CloseAppliedVacatesStations_faults :
    let f := (faulted mixed .none running).fl.endCause .holdExpired 0
    f.entries = [fault false false] ++ { fault false true with station := 2 } :: [{ fault true false with station := 3 }]
    ∧ (∀ x ∈ [{ fault true false with station := 3 }], x.ended = true)
    ∧ ({ fault false true with station := 2 } : FaultEntry).acknowledged = true
    ∧ [fault true false, fault false false] = [fault true false] ++ fault false false :: []
    ∧ (fault false false).acknowledged = false ∧ (fault false false).ended = false
    ∧ (∀ e ∈ [fault true false], e.ended = true) := by decide +kernel

/-- R140: of the mixed list a close removes the acknowledged entry, ends the other and carries the removal. -/
theorem test_close_ends_all :
    let f := (faulted mixed .none running).fl.endAll
    f.entries.map (·.station) = [1, 3] ∧ f.entries.all (·.ended) = true ∧ f.changes = 3
    ∧ f.carried = .removed { fault true true with station := 2 } 1 := by decide +kernel

theorem witness_RemovalWaitsOrApplies :
    (request .removeStation [])[4].toNat = (0 : StationId).val + 1
    ∧ (∀ s, (asking (request .removeStation []) s).Applies .removeStation (asks (request .removeStation [])))
    ∧ running.sc.engine ∈ [EngineState.config, .run] ∧ (running.station 0).state = .unused
    ∧ ((polling running).station 0).state ≠ .unused ∧ (polling running).cs.inHand ≠ none
    ∧ (let s := asking (request .removeStation []) (withTwoSlots .queued (withState .active running));
      s.SlotsSound ∧ s.sc.engine ∈ [EngineState.config, .run] ∧ (s.station 0).state ≠ .unused
      ∧ s.cs.inHand = none)
    ∧ (let s := asked (request .removeStation []) (.waiting true) (withTwoSlots .queued (withState .active running));
      s.SlotsSound
      ∧ s.sc.request = some { record := request .removeStation [], index := 3, stage := .waiting true }
      ∧ (request .removeStation []).commonCheck .control = none
      ∧ (request .removeStation []).kind = some .removeStation) := by
  refine ⟨by decide +kernel, fun s => applies _ _ _ rfl, by decide, by decide +kernel, by decide +kernel,
    by decide +kernel, ⟨?_, by decide +kernel⟩, ⟨?_, rfl, by decide +kernel⟩⟩ <;>
  (unfold State.SlotsSound; decide +kernel)

/-- R23: in UNUSED the sizes are 0 and the images and the mask are empty; a removal clears them. -/
theorem test_removal_empties_images :
    let e := (after (exec .removeStation (asking (request .removeStation []) (withState .active running)))).station 0
    e.state = .unused ∧ e.inputSize = 0 ∧ e.outputSize = 0 ∧ e.outputImage = [] ∧ e.inputImage = []
    ∧ e.watchMask = [] ∧ e.change.bits = [] := by decide +kernel

theorem witness_ReadStationReports :
    (∀ s, (asking (request .readStation []) s).Applies .readStation (asks (request .readStation [])))
    ∧ (request .readStation [])[4].toNat = (0 : StationId).val + 1
    ∧ (inEngine .closing).sc.engine ∉ [EngineState.config, .run]
    ∧ running.sc.engine ∈ [EngineState.config, .run]
    ∧ (running.station 0).state = .unused ∧ ((withState .active running).station 0).state ≠ .unused
    ∧ ((withState .active running).station 0).missCount < 256 :=
  ⟨fun _ => applies _ _ _ rfl, by decide +kernel⟩

theorem witness_ReadStatsReports :
    (∀ s, (asking (request .readStats []) s).Applies .readStats (asks (request .readStats [])))
    ∧ (inEngine .idle).sc.engine ∉ [EngineState.config, .run]
    ∧ running.sc.engine ∈ [EngineState.config, .run] ∧ running.fl.entries.length < 256 :=
  ⟨fun _ => applies _ _ _ rfl, by decide +kernel⟩

/-- An ABORT of the tag the slots of `slot` hold, and of another tag. -/
def aborts (found : Bool) : Record :=
  requestOf .abort 0 0 (if found then [0x00, 0x0D] else [0x01, 0x0D]) []

theorem witness_AbortFindsOldestTarget :
    let target := fun (s : State) (r : Record) i => (s.slot i).tag = r[7] ++ r[6] ∧ (s.slot i).state.unfinished = true
    let s := withTwoSlots .onLink (withState .active running)
    let t := withSlot0 (slot .write .onLink) (withState .active running)
    (∀ found s, (asking (aborts found) s).Applies .abort (asks (aborts found)))
    ∧ s.sc.engine ∈ [EngineState.config, .run]
    ∧ (∀ i ∈ s.tt.age, ¬ target s (aborts false) i)
    ∧ (s.tt.age = [] ++ 3 :: [0] ∧ target s (aborts true) 3 ∧ (s.slot 3).waiting = true
      ∧ (s.slot 3).station = some 0)
    ∧ (t.tt.age = [] ++ 0 :: [] ∧ target t (aborts true) 0 ∧ (t.slot 0).state = .onLink) := by
  refine ⟨fun found s => ?_, by decide +kernel⟩
  cases found <;> exact ⟨rfl, rfl, by decide +kernel, by decide +kernel⟩

/-- An ACK_FAULT of a kind and station. -/
def acks (kind station : Byte) : Record := request .ackFault [kind, station]

theorem witness_AckFaultOneOrAll :
    let pair := fun r : Record => (r[8].toNat ∈ [1, 2, 3] ∧ 1 ≤ r[9].toNat ∧ r[9].toNat ≤ 31)
      ∨ (r[8].toNat ∈ [4, 5, 6] ∧ r[9].toNat = 0)
    let names := fun (r : Record) (e : FaultEntry) => e.kind.code.toNat = r[8].toNat ∧ e.station = r[9].toNat
    (∀ k a s, (asking (acks k a) s).Applies .ackFault (asks (acks k a)))
    ∧ running.sc.engine ∈ [EngineState.idle, .config, .run]
    ∧ (¬ pair (acks 0 0) ∧ ¬ pair (acks 1 0) ∧ ¬ pair (acks 1 32) ∧ ¬ pair (acks 4 1) ∧ ¬ pair (acks 7 0))
    ∧ (acks 0 0)[8].toNat ≠ 0xFF ∧ (acks 0xFF 0)[8].toNat = 0xFF
    ∧ (pair (acks 1 1) ∧ pair (acks 3 31) ∧ pair (acks 6 0))
    ∧ (∀ e ∈ (faulted [fault false false] .none running).fl.entries, ¬ names (acks 1 31) e)
    ∧ (∀ e ∈ [fault false false, fault false true, fault true false], names (acks 1 1) e)
    ∧ (faulted [fault false false] .none running).fl.entries = [] ++ fault false false :: []
    ∧ (faulted mixed .none running).fl.entries = [fault false false, { fault false true with station := 2 }]
      ++ { fault true false with station := 3 } :: [] := by
  exact ⟨fun _ _ _ => applies _ _ _ rfl, by decide, by decide +kernel, by decide +kernel, by decide +kernel,
    by decide +kernel, by decide +kernel, by decide +kernel, rfl, rfl⟩

theorem witness_ReadFaultsReports :
    let reads := fun from' : Byte => requestOf .readFaults 2 0 [from', 0] []
    let s := faulted [fault false false] .none running
    (∀ n ∈ [(0 : Byte), 15, 16], (asking (reads n) s).Applies .readFaults (asks (reads n)))
    ∧ (inEngine .closing).sc.engine ∉ [EngineState.idle, .config, .run]
    ∧ s.sc.engine ∈ [EngineState.idle, .config, .run]
    ∧ 15 < ((reads 16)[7] ++ (reads 16)[6]).toNat ∧ ((reads 15)[7] ++ (reads 15)[6]).toNat ≤ 15
    ∧ ((reads 0)[7] ++ (reads 0)[6]).toNat ≤ 15 ∧ s.fl.Sound
    ∧ 0 < min 4 (s.fl.entries.length - 0) ∧ s.fl.entries[0 + 0]? = some (fault false false) := by
  refine ⟨fun n hn => ?_, ?_⟩
  · fin_cases hn <;> exact ⟨rfl, rfl, by decide +kernel, by decide +kernel⟩
  · unfold FaultList.Sound; decide +kernel

theorem witness_ResumeLeavesSafe :
    (∀ s, (asking (request .resume []) s).Applies .resume (asks (request .resume [])))
    ∧ running.hm.safe = false
    ∧ (let s := { running with hm := { running.hm with holdTime := 10, safe := true } }
      s.hm.safe = true ∧ s.sc.engine ∈ [EngineState.idle, .config, .run]) :=
  ⟨fun _ => applies _ _ _ rfl, by decide +kernel⟩

/-! ## Witnesses: transfer requests -/

theorem witness_TransferRequestsTurnedAway :
    (∀ k ∈ [RequestKind.writeOutputs, .readInputs, .setWatch, .keepalive, .remoteRead, .remoteWrite,
        .restartStation], ∀ s,
      (taking (requestOf k 0 0 [] []) s).Takes k { record := requestOf k 0 0 [] [], index := 5 }
      ∧ (requestOf k 0 0 [] [])[4].toNat = (0 : StationId).val + 1)
    ∧ (inEngine .idle).sc.engine ∉ [EngineState.config, .run] ∧ (inEngine .config).sc.engine ∉ [EngineState.run]
    ∧ running.sc.engine ∈ [EngineState.config, .run] ∧ running.sc.engine ∈ [EngineState.run]
    ∧ (running.station 0).state = .unused
    ∧ (let s := running.withStation 0 { station .active with removePending := true };
      (s.station 0).state ≠ .unused ∧ (s.station 0).removePending = true) := by
  refine ⟨fun k hk s => ⟨takes _ ?_ ?_, ?_⟩, by decide +kernel⟩ <;>
  fin_cases hk <;> decide +kernel

/-- A WRITE_OUTPUTS for station 1, with CONFIRM as given and one byte of data or none. -/
def writes (confirm : Bool) (length : Byte) : Record :=
  requestOf .writeOutputs (if confirm then 1 else 0) length [] [0x77]

theorem witness_WriteOutputsReplacesImage :
    (∀ confirm s, ∀ n ∈ [(0 : Byte), 1], (taking (writes confirm n) s).Takes .writeOutputs
      { record := writes confirm n, index := 5 })
    ∧ (writes true 1)[4].toNat = (0 : StationId).val + 1
    ∧ (∀ e ∈ [StationState.active, .lost], ∀ s ∈ [running, inEngine .config],
      (withState e s).sc.engine ∈ [EngineState.config, .run] ∧ ((withState e s).station 0).state ≠ .unused
      ∧ ((withState e s).station 0).removePending = false)
    ∧ fieldAt (writes true 0) 5 1 ≠ ((withState .active running).station 0).outputSize
    ∧ fieldAt (writes true 1) 5 1 = ((withState .active running).station 0).outputSize
    ∧ (writes false 1)[1].getLsbD 0 = false ∧ (writes true 1)[1].getLsbD 0 = true
    ∧ ((withState .lost running).station 0).inService = false
    ∧ ((withState .active running).station 0).inService = true ∧ running.hm.safe = false
    ∧ ({ running with hm := { running.hm with safe := true } } : State).hm.safe = true := by
  refine ⟨fun confirm s n hn => takes _ ?_ ?_, by decide +kernel⟩ <;>
  cases confirm <;> fin_cases hn <;> decide +kernel

theorem witness_ReadInputsAndSetWatch :
    (∀ s, (taking (requestOf .readInputs 0 0 [] []) s).Takes .readInputs
      { record := requestOf .readInputs 0 0 [] [], index := 5 })
    ∧ (∀ s, ∀ n ∈ [(1 : Byte), 2], (taking (requestOf .setWatch 0 n [] [0xF0]) s).Takes .setWatch
      { record := requestOf .setWatch 0 n [] [0xF0], index := 5 })
    ∧ (requestOf .readInputs 0 0 [] [])[4].toNat = (0 : StationId).val + 1
    ∧ (requestOf .setWatch 0 1 [] [0xF0])[4].toNat = (0 : StationId).val + 1
    ∧ (let s := withState .active running
      s.sc.engine ∈ [EngineState.config, .run] ∧ (s.station 0).state ≠ .unused
      ∧ (s.station 0).removePending = false ∧ (s.station 0).inputsValid = false
      ∧ fieldAt (requestOf .setWatch 0 2 [] [0xF0]) 5 1 ≠ (s.station 0).inputSize
      ∧ fieldAt (requestOf .setWatch 0 1 [] [0xF0]) 5 1 = (s.station 0).inputSize)
    ∧ ({ station .active with inputsValid := true } : Station).inputsValid = true := by
  refine ⟨fun s => takes _ (by decide +kernel) (by decide +kernel), fun s n hn => takes _ ?_ ?_,
    by decide +kernel⟩ <;> fin_cases hn <;> decide +kernel

theorem witness_KeepaliveRefreshesHoldTimer :
    (∀ s, (taking (requestOf .keepalive 0 0 [] []) s).Takes .keepalive
      { record := requestOf .keepalive 0 0 [] [], index := 5 })
    ∧ running.sc.engine ∈ [EngineState.config, .run] ∧ running.hm.timer = none
    ∧ (let s := { running with hm := { running.hm with holdTime := 10, timer := some 1 } }
      s.hm.timer = some 1 ∧ s.hm.safe = false ∧ 1 ≤ s.hm.holdTime) :=
  ⟨fun s => takes _ (by decide +kernel) (by decide +kernel), by decide +kernel⟩

/-- A remote request: its data length and its count. -/
def remote (k : RequestKind) (length count : Byte) : Record :=
  requestOf k 0 length [0x20, 0x01, count] [1, 2]

theorem witness_RemoteRequestsAccepted :
    (∀ k ∈ [RequestKind.remoteRead, .remoteWrite, .restartStation],
      ∀ p ∈ [((0 : Byte), (0 : Byte)), (0, 32), (0, 33), (1, 32), (32, 0)], ∀ s,
      (taking (remote k p.1 p.2) s).Takes k { record := remote k p.1 p.2, index := 5 }
      ∧ (remote k p.1 p.2)[4].toNat = (0 : StationId).val + 1)
    ∧ (let s := withState .mismatch running
      s.sc.engine = .run ∧ (s.station 0).state ≠ .unused ∧ (s.station 0).removePending = false
      ∧ (s.station 0).state ∉ [StationState.active, .degraded]
      ∧ (s.station 0).state ∈ [StationState.active, .degraded, .mismatch])
    ∧ (let s := withState .active running
      (s.station 0).state ∈ [StationState.active, .degraded] ∧ (s.slot 0).state = .free)
    ∧ (let s := withSlot0 (slot .read .queued) (withState .active running)
      (s.slot 1).state = .free ∧ ∀ j, j < 1 → (s.slot j).state ≠ .free)
    ∧ fieldAt (remote .remoteRead 0 0) 8 1 = 0 ∧ fieldAt (remote .remoteRead 0 33) 8 1 = 33
    ∧ fieldAt (remote .remoteRead 0 32) 8 1 = 32 ∧ fieldAt (remote .remoteRead 1 32) 5 1 = 1
    ∧ fieldAt (remote .remoteWrite 0 0) 5 1 = 0 ∧ fieldAt (remote .remoteWrite 32 0) 5 1 = 32 := by
  refine ⟨fun k hk p hp s => ⟨takes _ ?_ ?_, ?_⟩, by decide +kernel⟩ <;>
  fin_cases hk <;> fin_cases hp <;> decide +kernel

/-! ## Witnesses: the line -/

/-- The line in a state. -/
def onLine (e : LineState) (s : State) : State := { s with lc := { s.lc with state := e } }

/-- The gap has run out, with a send request held or none. -/
def gapOver (held : Option SendRequest) (s : State) : State :=
  { s with lc := { s.lc with state := .gap, gapTimer := some 0, held := held } }

/-- A POLL to station 1. -/
def pollRequest : SendRequest where
  address := 1
  kind := .poll
  toggle := false
  payload := [0, 0x11]
  dataLength := some 2

theorem witness_FramesCarryRequestAndCrc :
    ({ pollRequest with address := 31, payload := List.replicate 34 0 } : SendRequest).address < 32
    ∧ pollRequest.payload.length < 256
    ∧ (∀ kind ∈ [RemoteKind.read, .write, .restart],
      ((withSlot0 (slot kind .queued) running).slot 0).station = some 0
      ∧ ((withSlot0 (slot kind .queued) running).slot 0).kind = some kind)
    ∧ ((withState .active running).station 0).resync = false
    ∧ ((running.withStation 0 { station .active with resync := true }).station 0).resync = true := by
  decide +kernel

theorem witness_FrameSentAndGapEnd :
    (∀ kind ∈ [FrameKind.poll, .sync],
      (exchanging (.poll 0) kind .sending running).lc.state = .sending
      ∧ (exchanging (.poll 0) kind .sending running).lc.exchange.map (·.kind) = some kind
      ∧ (exchanging (.poll 0) kind .sending running).lc.params = some params)
    ∧ running.lc.state ≠ .sending
    ∧ (let s := gapOver (some pollRequest) running;
      s.lc.state = .gap ∧ s.lc.gapTimer = some 0 ∧ s.lc.held = some pollRequest)
    ∧ (let s := gapOver none running;
      s.lc.state = .gap ∧ s.lc.gapTimer = some 0 ∧ s.lc.held = none ∧ s.startsAtIdle = false)
    ∧ running.lc.state ≠ .gap := by decide +kernel

/-- A good reply of an ACTIVE station of 1 input byte to a POLL: status code 0 and input 55h. -/
def pollReply : List Byte := reply 0x81 [0, 0x55]

theorem witness_CharactersByLineState :
    (State.reset.lc.params = none ∧ State.reset.lc.state ∈ [LineState.off, .sending])
    ∧ (∀ e ∈ [LineState.off, .sending], (onLine e running).lc.params = some params
      ∧ (onLine e running).lc.state ∈ [LineState.off, .sending])
    ∧ (onLine .awaiting running).lc.state = .awaiting
    ∧ ({ data := 0xA5, framingError := true } : Character).framingError = true
    ∧ ¬ (({ data := 0x21, framingError := false } : Character).data = 0xA5)
    ∧ ({ data := 0xA5, framingError := false } : Character)
      = { data := 0xA5, framingError := false }
    ∧ (let s := almost pollReply.dropLast (polling running);
      s.lc.params = some params ∧ s.lc.state = .receiving
      ∧ s.outcomeAt (.character { data := 0, framingError := true }) = none)
    ∧ (∀ e ∈ [LineState.idle, .gap], (onLine e running).lc.state ∈ [LineState.idle, .gap]
      ∧ (onLine e running).lc.run = false)
    ∧ (let s := { running with lc := { running.lc with run := true, quietTimer := some 0 } };
      s.lc.params = some params ∧ s.lc.state ∈ [LineState.idle, .gap] ∧ s.lc.run = true
      ∧ s.lc.quietTimer = some 0) := by decide +kernel

/-- The check bytes of a reply body, high byte first. -/
def checkBytes (body : List Byte) : Half := crc body

/-- What a POLL of station 1 waits for, and what a PARAM_WRITE with toggle 1 waits for. -/
def pollExchange : ExchangeRecord := { address := 1, kind := .poll, toggle := false, dataLength := some 2 }
def writeExchange : ExchangeRecord := { address := 1, kind := .paramWrite, toggle := true, dataLength := none }

theorem witness_ReplyAcceptanceChecks :
    let high := fun b : List Byte => (checkBytes b).extractLsb' 8 8
    let low := fun b : List Byte => (checkBytes b).extractLsb' 0 8
    ([0, 0x55] : List Byte).length ≤ 34 ∧ (List.replicate 34 (0 : Byte)).length ≤ 34
    ∧ crc ([0x21, 0x81, 2] ++ [0, 0x55]) = high [0x21, 0x81, 2, 0, 0x55] ++ low [0x21, 0x81, 2, 0, 0x55]
    ∧ crc ([0x21, 0x81, 2] ++ [0, 0x55]) ≠ (0 : Byte) ++ (0 : Byte)
    ∧ crc ([0x21, 0x82, 0] ++ []) = high [0x21, 0x82, 0] ++ low [0x21, 0x82, 0]
    ∧ ¬ ((0x22 : Byte).toNat % 32 = pollExchange.address) ∧ (0x01 : Byte).getLsbD 5 = false
    ∧ (0x21 : Byte).toNat % 32 = pollExchange.address ∧ (0x21 : Byte).getLsbD 5 = true
    ∧ pollExchange.kind ∈ [FrameKind.poll, .ident, .paramRead]
    ∧ pollExchange.dataLength = some ([0, 0x55] : List Byte).length
    ∧ ((0 : Byte)).toNat < 16 ∧ (0x21 : Byte).getLsbD 7 = false
    ∧ pollExchange.dataLength ≠ some ([0] : List Byte).length
    ∧ writeExchange.kind ∈ [FrameKind.paramWrite, .restart]
    ∧ (0x21 : Byte).getLsbD 6 ≠ writeExchange.toggle ∧ (0x61 : Byte).getLsbD 6 = writeExchange.toggle := by
  decide +kernel

/-! ## Witnesses: the outcome at its owner -/

theorem witness_GoodPollTakesInputs :
    let confirm : Option Confirm := some { tag := 9, index := 2, carried := true }
    let s := almost pollReply ((polling running).withStation 0 { station .active with confirm := confirm })
    s.outcomeAt (lastOf pollReply) = some (.good (.data [0, 0x55])) ∧ s.cs.inHand = some (.poll 0)
    ∧ (s.station 0).inService = true ∧ ((s.station 0).confirm.elim false (·.carried)) = true := by
  decide +kernel

theorem witness_FailedPollCountsMiss :
    (∀ e ∈ [StationState.lost, .active], (timedOut ((polling running).withStation 0 (station e))).outcomeAt
        .responseTimeout = some (.failed .timeout)
      ∧ (timedOut ((polling running).withStation 0 (station e))).cs.inHand = some (.poll 0))
    ∧ ((withState .lost running).station 0).inService = false
    ∧ ((withState .active running).station 0).inService = true
    ∧ ((withState .active running).station 0).missCount + 1 < ((withState .active running).station 0).missLimit
    ∧ ({ station .degraded with missCount := 2 } : Station).missLimit
      ≤ ({ station .degraded with missCount := 2 } : Station).missCount + 1 := by decide +kernel

theorem witness_FailedPollCountsMiss_lost :
    let s := timedOut (withTwoSlots .queued ((polling running).withStation 0
      { station .degraded with missCount := 2 }))
    s.SlotsSound ∧ s.outcomeAt .responseTimeout = some (.failed .timeout)
    ∧ s.cs.inHand = some (.poll 0) ∧ (s.station 0).inService = true
    ∧ (s.station 0).missLimit ≤ (s.station 0).missCount + 1 := by
  unfold State.SlotsSound; refine ⟨?_, ?_, ?_, ?_, ?_⟩ <;> decide +kernel

/-- An IDENT of station 1 is on the line. -/
def probing (e : StationState) (s : State) : State :=
  exchanging (.probe 0) .ident .awaiting (withState e s)

/-- The identity of a station of type 1234h with the given input size and 1 output byte. -/
def identReply (inputs : Byte) : List Byte := reply 0x81 [0x34, 0x12, inputs, 1, 7]

theorem witness_ProbeIdentityJudged :
    (let s := timedOut (probing .probing running);
      s.outcomeAt .responseTimeout = some (.failed .timeout) ∧ s.cs.inHand = some (.probe 0)
      ∧ (s.station 0).state ≠ .unused)
    ∧ (∀ e ∈ [StationState.probing, .lost, .mismatch, .active, .degraded, .restarting], ∀ n ∈ [(1 : Byte), 2],
      let s := almost (identReply n) (probing e running);
      s.outcomeAt (lastOf (identReply n)) = some (.good (.data [0x34, 0x12, n, 1, 7]))
      ∧ s.cs.inHand = some (.probe 0) ∧ (s.station 0).state = e
      ∧ (s.station 0).expectedType = 0xFFFF
      ∧ ((s.station 0).inputSize = n.toNat ↔ n = 1) ∧ (s.station 0).outputSize = 1) := by decide +kernel

/-- An attempt of slot 0 of station 1 is on the line, with a frame of a kind. -/
def attempting (kind : FrameKind) (x : Slot) (s : State) : State :=
  exchanging (.attempt 0 0) kind .awaiting (withSlot0 x (withState .active s))

/-- The slot with an ABORT waiting for its attempt. -/
def aborted (x : Slot) : Slot := { x with abortPending := true }

theorem witness_AttemptCompletesOk :
    (∀ row ∈ [(RemoteKind.read, FrameKind.paramRead, reply 0x81 [1, 2, 3, 4], Reply.data [1, 2, 3, 4]),
        (.write, .paramWrite, reply 0x82 [], .done), (.restart, .restart, reply 0x82 [], .done)],
      ∀ x ∈ [slot row.1 .onLink, aborted (slot row.1 .onLink)],
      let s := asked (aborts true) (.waiting false) (almost row.2.2.1 (attempting row.2.1 x running));
      s.outcomeAt (lastOf row.2.2.1) = some (.good row.2.2.2) ∧ s.cs.inHand = some (.attempt 0 0)
      ∧ (s.slot 0).station = some 0 ∧ (s.slot 0).kind = some row.1 ∧ (s.station 0).state ≠ .unused
      ∧ (s.slot 0).form = some .frame
      ∧ s.sc.request = some { record := aborts true, index := 3, stage := .waiting false }) := by decide +kernel

/-- A PARAM_READ attempt of slot 0 with some attempts and WAITs counted. -/
def counted (attempts waits : Nat) : Slot :=
  { slot .read .onLink with attemptCount := attempts, waitCount := waits }

/-- What every clause of AttemptGoesOnOrEnds asks. -/
def Undecided (event : OutcomeEvent) (o : LineOutcome) (s : State) : Prop :=
  s.outcomeAt event = some o ∧ s.cs.inHand = some (.attempt 0 0) ∧ (s.slot 0).station = some 0
    ∧ (s.station 0).state ≠ .unused ∧ (s.slot 0).abortPending = false
    ∧ (s.station 0).removePending = false ∧ s.tt.ending = none

theorem witness_AttemptGoesOnOrEnds_failed :
    (∀ n ∈ [0, 1], Undecided .responseTimeout (.failed .timeout)
      (timedOut (attempting .paramRead (counted n 0) running)))
    ∧ (counted 0 0).attemptCount + 1 < running.tt.attemptLimit
    ∧ running.tt.attemptLimit ≤ (counted 1 0).attemptCount + 1 := by unfold Undecided; decide +kernel

theorem witness_AttemptGoesOnOrEnds_wait :
    (∀ n ∈ [0, 1], ∀ hint ∈ [(0 : Byte), 3], Undecided (lastOf (reply 0x83 [hint])) (.good (.wait hint))
      (almost (reply 0x83 [hint]) (attempting .paramRead (counted 0 n) running)))
    ∧ (counted 0 0).waitCount + 1 ≤ running.tt.waitLimit ∧ running.tt.waitLimit < (counted 0 1).waitCount + 1
    ∧ Undecided (lastOf (reply 0x84 [9])) (.good (.refuse 9))
      (almost (reply 0x84 [9]) (attempting .paramRead (counted 0 0) running)) := by
  unfold Undecided; decide +kernel

theorem witness_AttemptGoesOnOrEnds_resync :
    (∀ n ∈ [(1 : Byte), 2], let s := almost (identReply n) (attempting .ident
        { slot .write .onLink with form := some .resync } running);
      Undecided (lastOf (identReply n)) (.good (.data [0x34, 0x12, n, 1, 7])) s
      ∧ (s.slot 0).form = some .resync
      ∧ ((s.station 0).mismatch (identityOf [0x34, 0x12, n, 1, 7]) = none ↔ n = 1)) := by
  unfold Undecided; decide +kernel

theorem witness_DecidedAttemptEnds :
    (let s := asked (aborts true) (.waiting false) (timedOut (attempting .paramWrite
        (aborted (slot .write .onLink)) running));
      s.outcomeAt .responseTimeout = some (.failed .timeout) ∧ s.cs.inHand = some (.attempt 0 0)
      ∧ (s.slot 0).station = some 0 ∧ (s.station 0).state ≠ .unused ∧ (s.slot 0).abortPending = true
      ∧ s.sc.request = some { record := aborts true, index := 3, stage := .waiting false })
    ∧ (let s := (timedOut (attempting .paramWrite (slot .write .onLink) running)).withStation 0
        { station .active with removePending := true };
      s.outcomeAt .responseTimeout = some (.failed .timeout) ∧ s.cs.inHand = some (.attempt 0 0)
      ∧ (s.slot 0).abortPending = false ∧ (s.station 0).removePending = true)
    ∧ (∀ code ∈ [EndingCode.cyclesStopped, .sessionClosed],
      let s := timedOut (attempting .paramWrite (slot .write .onLink)
        { running with tt := { running.tt with ending := some code } });
      s.outcomeAt .responseTimeout = some (.failed .timeout) ∧ s.cs.inHand = some (.attempt 0 0)
      ∧ (s.slot 0).abortPending = false ∧ (s.station 0).removePending = false ∧ s.tt.ending = some code) := by
  decide +kernel

/-! ## Witnesses: the cycle and the timers -/

/-- The schedule changed. -/
def scheduled (f : Scheduler → Scheduler) (s : State) : State := { s with cs := f s.cs }

/-- A phase, a period mode, a cycle timer and an empty-cycle gap timer. -/
def atMoment (p : Phase) (m : PeriodMode) (timer gap : Option Nat) : State :=
  scheduled (fun c => { c with phase := p, mode := m, cycleTimer := timer, emptyGapTimer := gap }) running

theorem witness_CycleStartsAtItsMoment :
    (running.sc.engine = .run ∧ running.sc.teardown = .none)
    ∧ (∀ p ∈ [Phase.awaitStart, .window], let s := atMoment p .fixed (some 0) none;
      s.cs.mode = .fixed ∧ s.cs.cycleTimer = some 0
      ∧ (s.cs.phase = .awaitStart ∨ (s.cs.phase = .window ∧ s.cs.inHand = none)))
    ∧ (∀ b ∈ [true, false],
      let s := scheduled (fun c => { c with exchanged := b }) (atMoment .awaitStart .freeRun (some 0) none);
      s.cs.phase = .awaitStart ∧ s.cs.cycleTimer = some 0
      ∧ ((s.cs.exchanged = true ∧ s.lc.state = .idle) ∨ (s.cs.exchanged = false ∧ s.cs.emptyGapTimer = none)))
    ∧ (let s := atMoment .awaitStart .freeRun none (some 0);
      s.cs.mode = .freeRun ∧ s.cs.cycleTimer = none ∧ s.cs.exchanged = false ∧ s.cs.emptyGapTimer = some 0)
    ∧ (let s := gapOver none (scheduled (fun c => { c with overrun := true })
        (atMoment .awaitStart .fixed none none));
      s.cs.phase = .awaitStart ∧ s.lc.state = .gap ∧ s.lc.gapTimer = some 0 ∧ s.lc.held = none
      ∧ s.cs.mode = .fixed ∧ s.cs.overrun = true)
    ∧ (let s := gapOver none (scheduled (fun c => { c with exchanged := true })
        (atMoment .awaitStart .freeRun none none));
      s.cs.phase = .awaitStart ∧ s.lc.state = .gap ∧ s.lc.gapTimer = some 0 ∧ s.lc.held = none
      ∧ s.cs.mode = .freeRun ∧ s.cs.exchanged = true ∧ s.cs.cycleTimer = none) := by decide +kernel

theorem witness_CycleTimersWithoutStart :
    (let s := scheduled (fun c => { c with inHand := some (.poll 0), runLength := 2 })
        (atMoment .window .fixed (some 0) none);
      s.sc.engine = .run ∧ s.sc.teardown = .none ∧ s.cs.mode = .fixed ∧ s.cs.cycleTimer = some 0
      ∧ s.cs.phase ≠ .awaitStart ∧ ¬ (s.cs.phase = .window ∧ s.cs.inHand = none)
      ∧ 3 ≤ (satInc s.cs.runLength).toNat)
    ∧ (let s := atMoment .probe .freeRun (some 0) none;
      s.sc.engine = .run ∧ s.sc.teardown = .none ∧ s.cs.mode = .freeRun ∧ s.cs.cycleTimer = some 0
      ∧ s.cs.phase ≠ .awaitStart)
    ∧ (let s := atMoment .awaitStart .freeRun (some 0) (some 7);
      s.cs.exchanged = false ∧ s.cs.emptyGapTimer ≠ none)
    ∧ (let s := atMoment .awaitStart .freeRun (some 1) (some 0);
      s.cs.emptyGapTimer = some 0 ∧ s.cs.cycleTimer ≠ none)
    ∧ (∀ g ∈ [StartTrigger.cycleDue, .freeRunMinimum, .gapEnd, .emptyCycleGap], running.starts g = false) := by
  decide +kernel

/-- A phase of the cycle with station 1 in a state and the poll list as given. -/
def inPhase (p : Phase) (e : StationState) (polls : List StationId) : State :=
  scheduled (fun c => { c with phase := p, pollList := polls }) (withState e running)

theorem witness_PollSyncAndProbePhases_poll :
    (inEngine .config).sc.engine ≠ .run
    ∧ ({ running with sc := { running.sc with teardown := .stop } } : State).sc.teardown ≠ .none
    ∧ (running.sc.engine = .run ∧ running.sc.teardown = .none)
    ∧ (let s := inPhase .poll .active [0];
      s.cs.phase = .poll ∧ s.cs.pollList = 0 :: [] ∧ (s.station 0).inService = true
      ∧ (s.station 0).removePending = false)
    ∧ ((inPhase .poll .lost [0]).station 0).inService = false
    ∧ (let s := scheduled (fun c => { c with syncOption := true, pollsSent := true }) (inPhase .poll .active []);
      s.cs.phase = .poll ∧ s.cs.pollList = [] ∧ s.cs.syncOption = true ∧ s.cs.pollsSent = true)
    ∧ (inPhase .poll .active []).cs.syncOption = false := by decide +kernel

theorem witness_PollSyncAndProbePhases_probe :
    let candidate := fun (s : State) (k : StationId) => (s.station k).removePending = false
      ∧ ((s.station k).state ∈ [.probing, .lost]
        ∨ ((s.station k).state = .mismatch ∧ ¬ ∃ i, (s.fifo k).head? = some i ∧ (s.slot i).kind = some .restart
          ∧ (0 < (s.slot i).attemptCount ∨ 0 < (s.slot i).waitCount)))
    let distance := fun (s : State) (k : StationId) => (k.val + 31 - s.cs.probePointer) % 31
    (let s := inPhase .sync .probing [];
      s.cs.phase = .sync ∧ s.cs.overrun = false ∧ s.cs.probePointer ≤ 31 ∧ candidate s 0
      ∧ (∀ j, candidate s j → distance s 0 ≤ distance s j))
    ∧ (let s := inPhase .sync .active [];
      s.cs.phase = .sync ∧ ∀ k, ¬ candidate s k) := by decide +kernel

theorem witness_PollSyncAndProbePhases_forced :
    let s := withSlot0 { slot .read .queued with fitPass := 4 } (inPhase .probe .active [])
    s.cs.phase = .probe ∧ s.cs.overrun = false ∧ s.cs.mode = .fixed ∧ s.tt.age = [] ++ 0 :: []
    ∧ s.eligible 0 = true ∧ (s.slot 0).fitPass = 4 ∧ (s.slot 0).station = some 0
    ∧ (∀ i ∈ (inPhase .probe .active []).tt.age, ¬ ((inPhase .probe .active []).eligible i = true)) := by
  decide +kernel

/-- The oldest slot in the acyclic window waits to be served. -/
def inWindow (m : PeriodMode) (due : Option Nat) : State :=
  withSlot0 (slot .read .queued) (scheduled (fun c => { c with mode := m, due := due, budget := 1 })
    (inPhase .window .active []))

theorem witness_AcyclicWindowServesOldestThatFits :
    let eligible := fun (s : State) i => ∃ k, (s.slot i).station = some k ∧ (s.slot i).state = .queued
      ∧ (s.fifo k).head? = some i ∧ (s.station k).removePending = false
      ∧ ((s.station k).state ∈ [.active, .degraded]
        ∨ ((s.station k).state = .mismatch ∧ (s.slot i).kind = some .restart))
    (∀ m ∈ [PeriodMode.fixed, .freeRun], ∀ due ∈ [some 165, some 164, none], let s := inWindow m due;
      s.sc.engine = .run ∧ s.sc.teardown = .none ∧ s.cs.phase = .window ∧ s.cs.overrun = false
      ∧ s.tt.age = [] ++ 0 :: [] ∧ (s.slot 0).station = some 0 ∧ s.lc.params = some params ∧ s.cs.inHand = none
      ∧ s.cs.attempts.toNat < s.cs.budget)
    ∧ eligible (inWindow .fixed none) 0
    ∧ (∀ i ∈ (inPhase .window .active []).tt.age, ¬ eligible (inPhase .window .active []) i)
    ∧ (let s := scheduled (fun c => { c with attempts := 1 }) (inWindow .freeRun none);
      s.cs.budget ≤ s.cs.attempts.toNat)
    ∧ params.gapTime + params.rate.byteTimes (6 + 3) + params.responseTimeout + params.rate.byteTimes (6 + 4) = 165
    ∧ (polling running).cs.inHand ≠ none
    ∧ (inPhase .awaitStart .active []).cs.phase ≠ .window := by
  refine ⟨by decide +kernel, by decide +kernel, ?_, by decide +kernel, by decide +kernel, by decide +kernel,
    by decide⟩
  intro i hi; cases hi

theorem witness_BackoffAndRestartTimersExpire :
    running.sc.engine ≠ .halted
    ∧ (((withSlot0 (slot .read .backoff) running).slot 11).state ≠ .backoff
      ∧ ((withSlot0 (slot .read .backoff) running).slot 0).state = .backoff
      ∧ ((withSlot0 (slot .read .backoff) running).slot 0).backoffTimer = some 0)
    ∧ (let s := running.withStation 30 { station .restarting with restartTimer := some 0 };
      (s.station 30).state = .restarting ∧ (s.station 30).restartTimer = some 0
      ∧ (s.station 0).state ≠ .restarting) := by decide +kernel

theorem witness_HoldExpiryEntersSafe :
    let s := { running with
      hm := { running.hm with holdTime := 10, timer := some 0 }
      lc := { running.lc with held := some pollRequest } }
    s.sc.engine = .run ∧ s.hm.timer = some 0 ∧ s.lc.held = some pollRequest ∧ pollRequest.kind = .poll
    ∧ pollRequest.address = (0 : StationId).val + 1
    ∧ (∀ held, running.lc.held = some held → held.kind ≠ .poll) :=
  ⟨rfl, rfl, rfl, rfl, rfl, fun _ h => by cases h⟩

/-- The fault list full of faults of stations 1 to 16. -/
def fullList : FaultList :=
  { FaultList.reset with entries := (List.range 16).map fun n => { fault false false with station := n + 1 } }

theorem witness_FaultListRaisesAndEnds :
    let other := fun e : FaultEntry => e.kind ≠ .stationLost ∨ e.station ≠ 1
    (∀ e ∈ [fault false false, fault false true, fault true false], e.kind = .stationLost ∧ e.station = 1)
    ∧ (∀ e ∈ fullList.entries, e.kind ≠ .lineFault ∨ e.station ≠ 0) ∧ 16 ≤ fullList.entries.length
    ∧ (faulted [{ fault false false with station := 2 }, fault false false] .none running).fl.entries
      = [{ fault false false with station := 2 }] ++ fault false false :: []
    ∧ (∀ x ∈ [{ fault false false with station := 2 }], other x)
    ∧ running.fl.entries.length < 16 ∧ (∀ x ∈ running.fl.entries, other x) := by decide +kernel

/-! ## Witnesses: the invariants -/

/-- A state in which much is going on: station 1 DEGRADED and polled for the last time before it is LOST, with
two slots waiting, a fault listed, a FAULT event in staging and a control request waiting. -/
def busy : State :=
  let s := timedOut (withTwoSlots .backoff ((polling running).withStation 0
    { station .degraded with missCount := 2 }))
  { s with
    sc := { s.sc with request := some { record := request .stopCycles [], index := 3, stage := .waiting false } }
    hqi := { s.hqi with
      staging := [{ record := eventRecord, owner := .fault }]
      taken := some { record := request .keepalive [], index := 5 }
      post := some { address := 0x3000, bytes := eventRecord.bytes true } }
    fl := { s.fl with entries := [fault false true], inStaging := true, changes := 1 }
    pending := [.responseTimeout] }

/-- The outcome is a next state. -/
def isNext (o : Host.Outcome State Fault Refusal) : Bool :=
  match o with
  | .next _ => true
  | .fault _ | .refused _ => false

theorem busy_steps : step busy = .next (after (step busy)) := by
  have h : isNext (step busy) = true := by decide +kernel
  generalize step busy = o at h
  cases o <;> first | rfl | cases h

theorem witness_StepsKeepFaultListSound : busy.fl.Sound ∧ step busy = .next (after (step busy)) :=
  ⟨by unfold FaultList.Sound; decide +kernel, busy_steps⟩

theorem witness_StepsKeepStationsSound : busy.StationsSound ∧ step busy = .next (after (step busy)) :=
  ⟨by unfold State.StationsSound Station.Sound; decide +kernel, busy_steps⟩

theorem witness_StepsKeepSlotsSound : busy.SlotsSound ∧ step busy = .next (after (step busy)) :=
  ⟨by unfold State.SlotsSound; decide +kernel, busy_steps⟩

theorem witness_StepsKeepOneEventUnposted : busy.StagingSound ∧ step busy = .next (after (step busy)) :=
  ⟨by unfold State.StagingSound oneUnposted; decide +kernel, busy_steps⟩

theorem witness_StepsKeepRingsSound : busy.RingsSound ∧ step busy = .next (after (step busy)) :=
  ⟨by unfold State.RingsSound; decide +kernel, busy_steps⟩

/-- The step of `busy` is the LOST transition: both slots end and STATION_LOST is raised. -/
theorem test_busy_step_is_lost :
    ((after (step busy)).station 0).state = .lost ∧ (after (step busy)).tt.doneQueue = [3, 0]
    ∧ (after (step busy)).fl.entries.map (·.occurrences) = [2] := by decide +kernel

end Sys2Proof.Tests
end

section
/-! The acceptance checks of a reply (R13, R188): what each check reads of the bytes received, and the
outcome that the checks in order give. -/

namespace Sys2Proof.Machine

/-! ### What the checks read of a reply -/

/-- The code of a reply kind (R6). -/
def ReplyKind.code : ReplyKind → Byte
  | .data => 0x81
  | .done => 0x82
  | .wait => 0x83
  | .refuse => 0x84

@[simp] theorem ReplyKind.ofCode_code (r : ReplyKind) : ReplyKind.ofCode r.code = some r := by
  cases r <;> rfl

theorem ReplyKind.eq_code_of_ofCode {b : Byte} {r : ReplyKind} (h : ReplyKind.ofCode b = some r) :
    b = r.code := by
  apply BitVec.eq_of_toNat_eq
  unfold ReplyKind.ofCode at h
  split at h <;> cases h <;> assumption

/-- R6: a reply of code `k` may answer the exchange, and its payload has the length it must have. -/
def MayAnswer (x : ExchangeRecord) (k : Byte) (payload : List Byte) : Prop :=
  (k = 0x81 ∧ x.kind ∈ [.poll, .ident, .paramRead] ∧ x.dataLength = some payload.length)
    ∨ (k = 0x82 ∧ x.kind ∈ [.paramWrite, .restart] ∧ payload = [])
    ∨ (k ∈ [0x83#8, 0x84] ∧ x.kind ∈ [.paramRead, .paramWrite, .restart] ∧ payload.length = 1)

/-- R188: the reserved values of a reply of code `k` are as required. -/
def ReservedKept (x : ExchangeRecord) (a k : Byte) (payload : List Byte) : Prop :=
  a.getLsbD 7 = false
    ∧ (k = 0x81 → x.kind = .poll → (payload.headD 0).toNat < 16) ∧ (k = 0x84 → payload.headD 0 ≠ 0)

theorem mayAnswer_code (x : ExchangeRecord) (r : ReplyKind) (payload : List Byte) :
    MayAnswer x r.code payload ↔ requiredLength x r = some payload.length := by
  obtain ⟨address, kind, toggle, dataLength⟩ := x
  cases r <;> cases kind <;>
    simp [MayAnswer, requiredLength, ReplyKind.code, eq_comm (a := 0), eq_comm (a := 1)]

/-- A code that names no reply kind answers no exchange. -/
theorem not_mayAnswer_of_ofCode_none (x : ExchangeRecord) {k : Byte} (payload : List Byte)
    (h : ReplyKind.ofCode k = none) : ¬ MayAnswer x k payload := by
  have ne_code (r : ReplyKind) : k ≠ r.code := by
    rintro rfl
    simp at h
  rintro (⟨hk, -⟩ | ⟨hk, -⟩ | ⟨hk, -⟩)
  · exact ne_code .data hk
  · exact ne_code .done hk
  · rcases List.mem_pair.mp hk with hk | hk
    · exact ne_code .wait hk
    · exact ne_code .refuse hk

theorem highNibble_eq_zero_iff (b : Byte) : b.extractLsb' 4 4 = 0 ↔ b.toNat < 16 := by
  have := b.isLt
  rw [← BitVec.toNat_inj, BitVec.extractLsb'_toNat, Nat.shiftRight_eq_div_pow]
  simp only [BitVec.ofNat_eq_ofNat, BitVec.toNat_ofNat]
  omega

theorem reservedKept_code (x : ExchangeRecord) (a : Byte) (r : ReplyKind) (payload : List Byte) :
    ReservedKept x a r.code payload ↔ reservedBad x r a payload = false := by
  cases r <;> simp [ReservedKept, reservedBad, ReplyKind.code, ← highNibble_eq_zero_iff]

theorem low5_toNat (a : Byte) : (a.extractLsb' 0 5).toNat = a.toNat % 32 := by
  simp [BitVec.extractLsb'_toNat]

/-! ### The outcome of the checks in order -/

/-- The third to fifth checks of R13, which read the kind code, the payload and the toggle flag. -/
def bodyOutcome (x : ExchangeRecord) (a k : Byte) (payload : List Byte) : LineOutcome :=
  match ReplyKind.ofCode k with
  | none => .failed .malformed
  | some r =>
    if requiredLength x r ≠ some payload.length ∨ reservedBad x r a payload then .failed .malformed
    else if r = .done ∧ a.getLsbD 6 ≠ x.toggle then .failed .toggleError
    else .good (replyOf r payload)

/-- The checks applied to a reply whose length byte is the length of its payload. -/
theorem acceptReply_eq (x : ExchangeRecord) (a k c0 c1 : Byte) (payload : List Byte) (corrupt : Bool)
    (hlen : payload.length ≤ 34) :
    acceptReply x ([0xA5, a, k, BitVec.ofNat 8 payload.length] ++ payload ++ [c0, c1]) corrupt =
      if ¬ (corrupt = false ∧ crc ([a, k, BitVec.ofNat 8 payload.length] ++ payload) = c1 ++ c0) then
        .failed .crcError
      else if ¬ (a.toNat % 32 = x.address ∧ a.getLsbD 5 = true) then .failed .misaddressed
      else bodyOutcome x a k payload := by
  have hn : (BitVec.ofNat 8 payload.length).toNat = payload.length := by
    rw [BitVec.toNat_ofNat]; omega
  generalize BitVec.ofNat 8 payload.length = n at hn ⊢
  have covered : (([0xA5, a, k, n] ++ payload ++ [c0, c1]).drop 1).take (3 + payload.length)
      = [a, k, n] ++ payload := by
    simp [Nat.add_comm 3]
  have body : (([0xA5, a, k, n] ++ payload ++ [c0, c1]).drop 4).take payload.length = payload := by
    simp
  have low : ([0xA5, a, k, n] ++ payload ++ [c0, c1]).getD (4 + payload.length) 0 = c0 := by
    simp [Nat.add_comm 4]
  have high : ([0xA5, a, k, n] ++ payload ++ [c0, c1]).getD (5 + payload.length) 0 = c1 := by
    simp [Nat.add_comm 5]
  have address : ([0xA5, a, k, n] ++ payload ++ [c0, c1]).getD 1 0 = a := rfl
  have code : ([0xA5, a, k, n] ++ payload ++ [c0, c1]).getD 2 0 = k := rfl
  have length : ([0xA5, a, k, n] ++ payload ++ [c0, c1]).getD 3 0 = n := rfl
  unfold acceptReply
  simp only [address, code, length, hn, covered, body, low, high, low5_toNat, halfOf]
  cases hk : ReplyKind.ofCode k <;> simp [imp_iff_not_or, bodyOutcome, hk]

theorem bodyOutcome_malformed (x : ExchangeRecord) (a k : Byte) (payload : List Byte)
    (h : ¬ (MayAnswer x k payload ∧ ReservedKept x a k payload)) :
    bodyOutcome x a k payload = .failed .malformed := by
  unfold bodyOutcome
  cases hr : ReplyKind.ofCode k with
  | none => rfl
  | some r =>
    rw [ReplyKind.eq_code_of_ofCode hr, mayAnswer_code, reservedKept_code] at h
    exact if_pos (by simpa [imp_iff_not_or] using h)

/-- The code of a reply that passed the third check names its kind, and only the toggle is left to check. -/
theorem bodyOutcome_answered (x : ExchangeRecord) (a k : Byte) (payload : List Byte)
    (ha : MayAnswer x k payload) (hv : ReservedKept x a k payload) :
    ∃ r : ReplyKind, k = r.code ∧ bodyOutcome x a k payload =
      if r = .done ∧ a.getLsbD 6 ≠ x.toggle then .failed .toggleError else .good (replyOf r payload) := by
  cases hr : ReplyKind.ofCode k with
  | none => exact absurd ha (not_mayAnswer_of_ofCode_none x payload hr)
  | some r =>
    obtain rfl := ReplyKind.eq_code_of_ofCode hr
    rw [mayAnswer_code] at ha
    rw [reservedKept_code] at hv
    exact ⟨r, rfl, by simp [bodyOutcome, ha, hv]⟩

theorem ReplyKind.code_eq_done_iff (r : ReplyKind) : r.code = 0x82 ↔ r = .done := by
  cases r <;> decide

theorem replyOf_eq_of_code (r : ReplyKind) (payload : List Byte) : replyOf r payload =
    if r.code = 0x81 then .data payload else if r.code = 0x82 then .done
      else if r.code = 0x83 then .wait (payload.headD 0) else .refuse (payload.headD 0) := by
  cases r <;> rfl

/-- Settles O41: each check of `acceptReply_eq` decides once those before it have passed. -/
theorem replyAcceptanceChecks : Obligations.ReplyAcceptanceChecks := by
  intro x a k c0 c1 payload corrupt hlen n outcome intact addressed answers reserved toggled
  have heq : outcome = if ¬ intact then .failed .crcError
      else if ¬ addressed then .failed .misaddressed else bodyOutcome x a k payload :=
    acceptReply_eq x a k c0 c1 payload corrupt hlen
  have body (hi : intact) (hd : addressed) : outcome = bodyOutcome x a k payload := by
    rw [heq, if_neg (not_not.mpr hi), if_neg (not_not.mpr hd)]
  refine ⟨fun hi => ?_, fun hi hd => ?_, fun hi hd hm => ?_, fun hi hd ha hv ht => ?_,
    fun hi hd ha hv ht => ?_⟩
  · rw [heq, if_pos hi]
  · rw [heq, if_neg (not_not.mpr hi), if_pos hd]
  · exact (body hi hd).trans (bodyOutcome_malformed x a k payload hm)
  · obtain ⟨r, hk, hb⟩ := bodyOutcome_answered x a k payload ha hv
    obtain ⟨hdone, htog⟩ := Classical.not_imp.mp ht
    rw [body hi hd, hb, if_pos ⟨r.code_eq_done_iff.mp (hk ▸ hdone), htog⟩]
  · obtain ⟨r, hk, hb⟩ := bodyOutcome_answered x a k payload ha hv
    have passed : ¬ (r = .done ∧ a.getLsbD 6 ≠ x.toggle) :=
      fun ⟨hdone, htog⟩ => htog (ht (hk ▸ r.code_eq_done_iff.mpr hdone))
    rw [body hi hd, hb, if_neg passed, hk, replyOf_eq_of_code]

end Sys2Proof.Machine
end

section
/-! The station table's control requests: CONFIGURE_STATION (R25, R26) and READ_STATION (R47), each with
what its owner does for the station the record names, and READ_STATION with the 25 bytes it returns. -/

namespace Sys2Proof.Machine

/-! ### The gate -/

/-- R147: the kinds of `takenIn_config_run` are taken in no other state. -/
theorem RequestKind.takenIn_eq_false_of_not_config_run {k : RequestKind} {e : EngineState}
    (hk : k ∈ [RequestKind.closeSession, .configureStation, .removeStation, .readStation, .readStats, .abort])
    (he : e ∉ [EngineState.config, .run]) : k.takenIn e = false := by
  simp only [List.mem_cons, List.not_mem_nil, or_false] at hk
  rcases hk with rfl | rfl | rfl | rfl | rfl | rfl <;> cases e <;> simp_all [RequestKind.takenIn]

/-- A change of an entry leaves the request in progress, so it can still be answered. -/
theorem State.answer_withStation {s : State} {q : ControlRequest} (h : s.sc.request = some q)
    (k : StationId) (e : Station) (status : Status) :
    (s.withStation k e).answer status = (s.withStation k e).controlAnswered q status [] [] :=
  State.answer_of_request (s := s.withStation k e) h status

/-! ### CONFIGURE_STATION -/

/-- The second check of R25, on the bytes of the record; a restart delay has no bound but the byte's. -/
theorem Record.stationParams_valid_iff (r : Record) : r.stationParams.valid = true ↔
    fieldAt r 10 1 ≤ 16 ∧ fieldAt r 11 1 ≤ 16 ∧ fieldAt r 12 1 ∈ [1, 2, 4, 8]
      ∧ (1 ≤ fieldAt r 13 1 ∧ fieldAt r 13 1 ≤ 15) ∧ 1 ≤ fieldAt r 14 1 := by
  have delay_le : fieldAt r 14 1 ≤ 255 := by
    rw [fieldAt_one r 14 (by omega)]
    exact Nat.le_of_lt_succ r[14].isLt
  simp [Record.stationParams_eq, StationParams.valid, inRange, delay_le, and_assoc, or_assoc]

/-- R25: the checks in order for the station the record names, and the entry set up when all pass. -/
theorem State.onConfigureStation_eq {r : Record} {k : StationId} (hk : r[4].toNat = k.val + 1) (s : State) :
    s.onConfigureStation r =
      if (s.station k).configured then s.answer (.rejected .inUse)
      else if !r.stationParams.valid then s.answer (.rejected .badParameter)
      else if r.dataLength ≠ r.stationParams.outputSize then s.answer (.rejected .badLength)
      else ((s.updStation k (Station.configure r.stationParams r.data)).moveStation k .probing).answer .ok := by
  simp only [State.onConfigureStation, (r.station_eq_some_iff k).mpr hk]

/-- R26, R48: the entry set up and moved to PROBING, as one change of the entry. -/
theorem State.configured_probing_eq (s : State) (k : StationId) (p : StationParams) (data : List Byte) :
    (s.updStation k (Station.configure p data)).moveStation k .probing =
      s.withStation k { Station.configure p data (s.station k) with
        state := .probing
        report := (s.station k).reportAfter s.st.stateEvents .probing } := by
  have report : (Station.configure p data (s.station k)).reportAfter s.st.stateEvents .probing
      = (s.station k).reportAfter s.st.stateEvents .probing := Station.reportAfter_congr rfl rfl _ _
  have option : (s.withStation k (Station.configure p data (s.station k))).st.stateEvents
      = s.st.stateEvents := rfl
  simp only [State.moveStation, State.updStation_eq_withStation, State.withStation_station,
    State.withStation_withStation, option,
    Station.moveTo_eq_with _ _ _ (by decide : StationState.probing ≠ .unused), report]

/-- Settles O25: each check of `onConfigureStation_eq` decides once those before it have passed. -/
theorem configureStationJudged : Obligations.ConfigureStationJudged := by
  intro s q k happ hk gate p good e safe
  have request : s.sc.request = some q := happ.1
  have valid_iff : q.record.stationParams.valid = true ↔ good := q.record.stationParams_valid_iff
  have length : q.record.dataLength = p 5 1 := (fieldAt_one q.record 5 (by omega)).symm
  have size : q.record.stationParams.outputSize = p 11 1 := by rw [Record.stationParams_eq]
  have applied (ho : gate) : exec .configureStation s = .next (s.onConfigureStation q.record) :=
    congrArg Host.Outcome.next
      (State.applyControl_of_applies _ happ (RequestKind.takenIn_config_run (by simp) ho))
  have free (hu : e.state = .unused) : ¬ (s.station k).configured = true :=
    fun h => (Station.configured_iff _).mp h hu
  refine ⟨fun ho => ?_, fun ho hu => ?_, fun ho hu hg => ?_, fun ho hu hg hl => ?_, fun ho hu hg hl => ?_⟩
  · exact congrArg Host.Outcome.next (State.applyControl_refused _ happ
      (RequestKind.takenIn_eq_false_of_not_config_run (by simp) ho))
  · rw [applied ho, State.onConfigureStation_eq hk, if_pos ((Station.configured_iff _).mpr hu),
      State.answer_of_request request]
  · rw [applied ho, State.onConfigureStation_eq hk, if_neg (free hu),
      if_pos (by simpa using mt valid_iff.mp hg), State.answer_of_request request]
  · rw [applied ho, State.onConfigureStation_eq hk, if_neg (free hu), if_neg (by simp [valid_iff.mpr hg]),
      if_pos (by rwa [length, size]), State.answer_of_request request]
  · rw [applied ho, State.onConfigureStation_eq hk, if_neg (free hu), if_neg (by simp [valid_iff.mpr hg]),
      if_neg (by rw [length, size]; exact not_not.mpr hl), State.configured_probing_eq,
      State.answer_withStation request, Record.stationParams_eq, Record.data_eq]
    rfl

/-! ### READ_STATION -/

/-- The identity READ_STATION reports: all 0 while none has been learned. -/
def Station.reportedIdentity (e : Station) : Identity :=
  e.learned.getD { type := 0, inputSize := 0, outputSize := 0, firmware := 0 }

/-- The flags READ_STATION reports. -/
def Station.readFlags (e : Station) : Byte :=
  flagBit e.inputsValid 0 ||| flagBit e.toggle 1 ||| flagBit e.resync 2
    ||| flagBit e.confirm.isSome 3 ||| flagBit e.change.pending 4 ||| flagBit e.learned.isSome 5

/-- A field of the identity, as a number. -/
theorem Station.reportedIdentity_field (e : Station) (field : Identity → Nat)
    (h : field { type := 0, inputSize := 0, outputSize := 0, firmware := 0 } = 0) :
    field e.reportedIdentity = e.learned.elim 0 field := by
  unfold Station.reportedIdentity
  cases e.learned with
  | none => exact h
  | some i => rfl

theorem flagBits_toNat (a b c d e f : Bool) :
    (flagBit a 0 ||| flagBit b 1 ||| flagBit c 2 ||| flagBit d 3 ||| flagBit e 4 ||| flagBit f 5).toNat
      = a.toNat + 2 * b.toNat + 4 * c.toNat + 8 * d.toNat + 16 * e.toNat + 32 * f.toNat := by
  revert a b c d e f
  decide

/-- R47: the fields of the entry in the order they are returned. -/
theorem Station.readData_eq (e : Station) : e.readData =
    [e.state.code, byteOf e.missCount] ++ halfBytes e.reportedIdentity.type
      ++ [e.reportedIdentity.inputSize, e.reportedIdentity.outputSize, e.reportedIdentity.firmware, e.readFlags]
      ++ wordBytes e.counters.pollsSent ++ wordBytes e.counters.goodReplies
      ++ halfBytes e.counters.timeouts ++ halfBytes e.counters.crcErrors
      ++ halfBytes e.counters.waits ++ halfBytes e.counters.refuses ++ [e.statusCode.zeroExtend 8] := by
  unfold Station.readData Station.reportedIdentity Station.readFlags
  cases e.learned <;> rfl

theorem Station.readData_length (e : Station) : e.readData.length = 25 := by
  rw [Station.readData_eq]; rfl

/-- R47: a configured station is read, and its counters are cleared after the read where CLEAR is set. -/
theorem State.onReadStation_of_configured {s : State} {q : ControlRequest} {k : StationId}
    (hk : q.record[4].toNat = k.val + 1) (hq : s.sc.request = some q) (hu : (s.station k).state ≠ .unused) :
    s.onReadStation q.record = State.controlAnswered
      (if q.record[1].getLsbD 1 then s.withStation k { s.station k with counters := .zero } else s)
      q .ok [] (s.station k).readData := by
  have configured := (Station.configured_iff _).mpr hu
  simp only [State.onReadStation, (q.record.station_eq_some_iff k).mpr hk, configured,
    State.completeControl_of_request hq, Record.clearFlag,
    Bool.not_true, Bool.false_eq_true, if_false]
  split <;> rfl

theorem State.onReadStation_of_unused {s : State} {q : ControlRequest} {k : StationId}
    (hk : q.record[4].toNat = k.val + 1) (hq : s.sc.request = some q) (hu : (s.station k).state = .unused) :
    s.onReadStation q.record = s.controlAnswered q (.rejected .notConfigured) [] [] := by
  simp [State.onReadStation, (q.record.station_eq_some_iff k).mpr hk, Station.configured, hu,
    State.answer_of_request hq]

/-- Settles O27: the bytes at each offset are those of the field that `readData_eq` puts there. -/
theorem readStationReports : Obligations.ReadStationReports := by
  intro s q k happ hk gate e
  have request : s.sc.request = some q := happ.1
  have applied (ho : gate) : exec .readStation s = .next (s.onReadStation q.record) :=
    congrArg Host.Outcome.next
      (State.applyControl_of_applies _ happ (RequestKind.takenIn_config_run (by simp) ho))
  refine ⟨fun ho => ?_, fun ho hu => ?_, fun ho hu hm => ⟨e.readData, ?_, e.readData_length, ?_⟩⟩
  · exact congrArg Host.Outcome.next (State.applyControl_refused _ happ
      (RequestKind.takenIn_eq_false_of_not_config_run (by simp) ho))
  · rw [applied ho, State.onReadStation_of_unused hk request hu]
  · rw [applied ho, State.onReadStation_of_configured hk request hu]
  · clear_value e
    rw [Station.readData_eq]
    refine ⟨?state, ?missCount, ?type, ?inputSize, ?outputSize, ?firmware, ?flags,
      littleEndian_wordBytes e.counters.pollsSent, littleEndian_wordBytes e.counters.goodReplies,
      littleEndian_halfBytes e.counters.timeouts, littleEndian_halfBytes e.counters.crcErrors,
      littleEndian_halfBytes e.counters.waits, littleEndian_halfBytes e.counters.refuses, ?statusCode⟩
    case state =>
      refine (littleEndian_one e.state.code).trans ?_
      cases e.state <;> rfl
    case missCount => exact (littleEndian_one _).trans (Nat.mod_eq_of_lt hm)
    case type => exact (littleEndian_halfBytes _).trans (e.reportedIdentity_field (·.type.toNat) rfl)
    case inputSize => exact (littleEndian_one _).trans (e.reportedIdentity_field (·.inputSize.toNat) rfl)
    case outputSize => exact (littleEndian_one _).trans (e.reportedIdentity_field (·.outputSize.toNat) rfl)
    case firmware => exact (littleEndian_one _).trans (e.reportedIdentity_field (·.firmware.toNat) rfl)
    case flags => exact (littleEndian_one _).trans (flagBits_toNat _ _ _ _ _ _)
    case statusCode =>
      exact (littleEndian_one (e.statusCode.zeroExtend 8)).trans
        (BitVec.toNat_setWidth_of_le (by decide))

end Sys2Proof.Machine
end

section
/-! READ_STATS (R70): the 28 bytes of statistics, and what CLEAR clears after the read (R69). -/

namespace Sys2Proof.Machine

/-- The slots of the table are those of the slot numbers, so either counts the FREE ones. -/
theorem TransactionTable.freeCount_eq (s : State) :
    s.tt.freeCount = ((List.finRange 12).filter fun i => (s.slot i).state = .free).length := by
  have slots_eq : s.tt.slots.toList = (List.finRange 12).map s.slot := by
    rw [← List.ofFn_eq_map, ← Vector.toList_ofFn]
    exact congrArg Vector.toList Vector.ofFn_getElem.symm
  rw [TransactionTable.freeCount, slots_eq, List.filter_map, List.length_map]
  rfl

theorem TransactionTable.freeCount_le (t : TransactionTable) : t.freeCount ≤ 12 :=
  (List.length_filter_le _ _).trans t.slots.length_toList.le

theorem littleEndian_byteOf {n : Nat} (h : n < 256) : littleEndian [byteOf n] = n :=
  (littleEndian_one _).trans (Nat.mod_eq_of_lt h)

/-- R50: a busy time of none is returned as 0. -/
theorem littleEndian_busyTime (busy : Option Word) :
    littleEndian (wordBytes (busy.getD 0)) = busy.elim 0 BitVec.toNat := by
  rw [littleEndian_wordBytes]
  cases busy <;> rfl

theorem State.statsData_length (s : State) : s.statsData.length = 28 := rfl

/-- R70: the statistics are read, and cleared after the read where CLEAR is set. -/
theorem State.onReadStats_of_request {s : State} {q : ControlRequest} (hq : s.sc.request = some q) :
    s.onReadStats q.record = State.controlAnswered
      (if q.record[1].getLsbD 1 then { s with
        cs := s.cs.clearStats, lc := { s.lc with unexpected := 0 } } else s) q .ok [] s.statsData := by
  simp only [State.onReadStats, State.completeControl_of_request hq, Record.clearFlag]
  split <;> rfl

/-- Settles O28: the bytes at each offset are those of the field that `statsData` puts there. -/
theorem readStatsReports : Obligations.ReadStatsReports := by
  intro s q happ gate
  refine ⟨fun ho => ?_, fun ho hf => ⟨s.statsData, ?_, s.statsData_length, ?_⟩⟩
  · exact congrArg Host.Outcome.next (State.applyControl_refused _ happ
      (RequestKind.takenIn_eq_false_of_not_config_run (by simp) ho))
  · have taken := RequestKind.takenIn_config_run (k := .readStats) (by simp) ho
    exact congrArg Host.Outcome.next
      ((State.applyControl_of_applies _ happ taken).trans (State.onReadStats_of_request happ.1))
  · have free : s.tt.freeCount < 256 := Nat.lt_of_le_of_lt s.tt.freeCount_le (by decide)
    exact ⟨littleEndian_wordBytes s.cs.cycle, littleEndian_busyTime s.cs.lastBusy,
      littleEndian_busyTime s.cs.minBusy, littleEndian_busyTime s.cs.maxBusy,
      littleEndian_wordBytes s.cs.overrunCount,
      (littleEndian_byteOf free).trans (TransactionTable.freeCount_eq s),
      littleEndian_byteOf hf, littleEndian_halfBytes s.fl.overflow,
      littleEndian_wordBytes s.lc.unexpected⟩

end Sys2Proof.Machine
end

section
/-! ABORT (R118 to R120): the slot its tag names, and the end of a target that waits. -/

namespace Sys2Proof.Machine

/-! ### The target -/

theorem SlotState.unfinished_eq (x : SlotState) :
    x.unfinished = (x = .queued || x = .onLink || x = .backoff) := by
  cases x <;> rfl

/-- R118: the target is the first slot of the age list that is unfinished and has the tag. -/
theorem State.abortTarget_eq (s : State) (tag : Half) :
    s.abortTarget tag =
      s.tt.age.find? fun i => decide ((s.slot i).tag = tag ∧ (s.slot i).state.unfinished = true) := by
  simp only [State.abortTarget, SlotState.unfinished_eq, Bool.decide_and, Bool.decide_eq_true]

theorem State.abortTarget_eq_none {s : State} {tag : Half}
    (h : ∀ i ∈ s.tt.age, ¬ ((s.slot i).tag = tag ∧ (s.slot i).state.unfinished = true)) :
    s.abortTarget tag = none := by
  simpa only [State.abortTarget_eq, List.find?_eq_none, decide_eq_true_eq] using h

theorem State.abortTarget_eq_some {s : State} {tag : Half} {before after : List SlotId} {i : SlotId}
    (hage : s.tt.age = before ++ i :: after)
    (hbefore : ∀ j ∈ before, ¬ ((s.slot j).tag = tag ∧ (s.slot j).state.unfinished = true))
    (hi : (s.slot i).tag = tag ∧ (s.slot i).state.unfinished = true) :
    s.abortTarget tag = some i := by
  rw [State.abortTarget_eq, List.find?_eq_some_iff_append]
  exact ⟨decide_eq_true hi, before, after, hage, fun j hj => by rw [decide_eq_false (hbefore j hj)]; rfl⟩

/-! ### What ABORT does with its target -/

theorem Slot.waiting_ne_onLink {x : Slot} (h : x.waiting = true) : x.state ≠ .onLink := by
  rcases x.waiting_iff.mp h with hx | hx <;> simp [hx]

/-- R110: an end by ABORT is uncertain for a doubtful write or restart. -/
theorem Slot.uncertainEnd_aborted (x : Slot) :
    x.uncertainEnd (.ended .aborted)
      = (x.doubtful && decide (x.kind ∈ [some .write, some .restart])) := by
  simp [Slot.uncertainEnd, Status.uncertain, Bool.and_comm]

/-- R120: no unfinished slot has the tag. -/
theorem State.onAbort_of_none {s : State} {q : ControlRequest} (hq : s.sc.request = some q)
    (ht : s.abortTarget q.record.paramA = none) :
    s.onAbort q.record = s.controlAnswered q (.rejected .notFound) [] [] := by
  simp only [State.onAbort, ht, State.answer_of_request hq]

/-- R115: a target in hand is marked, and the request waits for its outcome. -/
theorem State.onAbort_of_onLink {s : State} {q : ControlRequest} {i : SlotId}
    (hq : s.sc.request = some q) (ht : s.abortTarget q.record.paramA = some i)
    (hi : (s.slot i).state = .onLink) :
    s.onAbort q.record = State.controlWaiting
      (s.withSlot i { s.slot i with abortPending := true }) q := by
  have marked : (s.withSlot i { s.slot i with abortPending := true }).sc.request = some q := hq
  simp only [State.onAbort, ht, if_pos hi, State.updSlot_eq_withSlot,
    State.deferControl_of_request marked]

/-- R119: a target that is not in hand ends, and the request is answered with its ring index. -/
theorem State.onAbort_of_waiting {s : State} {q : ControlRequest} {i : SlotId}
    (hq : s.sc.request = some q) (ht : s.abortTarget q.record.paramA = some i)
    (hi : (s.slot i).waiting = true) :
    s.onAbort q.record = State.reportEligible (State.controlAnswered
      (s.slotDone i (.ended .aborted) (s.slot i).data 0) q .ok
      (halfBytes (BitVec.ofNat 16 ((s.slot i).index % 1024))) []) := by
  have ended : (s.slotDone i (.ended .aborted) (s.slot i).data 0).sc.request = some q := by
    rw [State.slotDone_sc, hq]
  simp only [State.onAbort, ht, if_neg (Slot.waiting_ne_onLink hi), State.endSlot, State.answerAbort,
    if_true, State.completeControl_of_request ended]

/-- Settles O29: the target is the first in the age list, and its state decides what ABORT does with it. -/
theorem abortFindsOldestTarget : Obligations.AbortFindsOldestTarget := by
  intro s q happ gate target
  have request : s.sc.request = some q := happ.1
  have applied : exec .abort s = .next (s.onAbort q.record) :=
    congrArg Host.Outcome.next
      (State.applyControl_of_applies _ happ (RequestKind.takenIn_config_run (by simp) gate))
  refine ⟨fun hnone => ?_, fun before i after hage hbefore hi => ?_⟩
  · rw [applied, State.onAbort_of_none request (State.abortTarget_eq_none hnone)]
  · have found : s.abortTarget q.record.paramA = some i := State.abortTarget_eq_some hage hbefore hi
    refine ⟨fun honLink => ?_, fun k hwaiting hstation => ?_⟩
    · rw [applied, State.onAbort_of_onLink request found honLink]
    · rw [applied, State.onAbort_of_waiting request found hwaiting, State.slotDone_eq s i k hstation,
        Slot.uncertainEnd_aborted]

end Sys2Proof.Machine
end

section
/-! READ_FAULTS (R133, R134): where each compact report stands in the data, and what CLEAR clears after the
read. -/

namespace Sys2Proof.Machine

/-! ### Pieces of one length -/

/-- In a row of pieces of `n` elements each, the piece of the `i`-th element begins at `n * i`. -/
theorem exists_drop_flatMap_eq {α β : Type} {g : α → List β} {n : Nat} (hg : ∀ x, (g x).length = n)
    {l : List α} {i : Nat} {x : α} (hx : l[i]? = some x) :
    ∃ rest, (l.flatMap g).drop (n * i) = g x ++ rest := by
  induction l generalizing i with
  | nil => cases hx
  | cons y l ih =>
    cases i with
    | zero =>
      obtain rfl : y = x := by simpa using hx
      exact ⟨l.flatMap g, rfl⟩
    | succ i =>
      obtain ⟨rest, hrest⟩ := ih (i := i) (by simpa using hx)
      refine ⟨rest, ?_⟩
      rw [List.flatMap_cons, Nat.mul_succ, Nat.add_comm, ← List.drop_drop, List.drop_left' (hg y), hrest]

/-! ### The compact report -/

theorem FaultEntry.report_length (e : FaultEntry) (position : Nat) (removed : Bool) :
    (e.report position removed).length = 8 := rfl

/-- R134: the flags of an entry that is still in the list, as a number. -/
theorem FaultEntry.flags_listed_toNat (e : FaultEntry) :
    (e.flags false).toNat = e.ended.toNat + 2 * e.acknowledged.toNat := by
  unfold FaultEntry.flags
  cases e.ended <;> cases e.acknowledged <;> rfl

/-- R134: the last cycle is reported by its low 16 bits. -/
theorem littleEndian_lowHalf (x : Word) :
    littleEndian (halfBytes (x.extractLsb' 0 16)) = x.toNat % 65536 := by
  rw [littleEndian_halfBytes, BitVec.extractLsb'_toNat, Nat.shiftRight_zero]

/-! ### The data of the answer -/

theorem FaultList.reports_length (f : FaultList) (position : Nat) :
    (f.reports position).length = 8 * min 4 (f.entries.length - position) := by
  simp [FaultList.reports, List.length_flatMap, FaultEntry.report_length, Nat.mul_comm]

/-- R133: the `i`-th report is that of the entry `i` positions after the one asked for. -/
theorem FaultList.exists_drop_reports_eq {f : FaultList} {position i : Nat} {e : FaultEntry} (hi : i < 4)
    (he : f.entries[position + i]? = some e) :
    ∃ rest, (f.reports position).drop (8 * i) = e.report (position + i) false ++ rest := by
  refine exists_drop_flatMap_eq (g := fun p : FaultEntry × Nat => p.1.report p.2 false) (x := (e, position + i))
    (fun p => p.1.report_length p.2 false) ?_
  simp [hi, List.getElem?_drop, he]

/-- R134: the bytes of one report in the data. -/
theorem FaultList.reports_bytes {f : FaultList} {position i : Nat} {e : FaultEntry} (hi : i < 4)
    (he : f.entries[position + i]? = some e) (hp : position + i < 256) :
    let b := fun j => ((f.reports position).getD (8 * i + j) 0).toNat
    b 0 = e.kind.code.toNat ∧ b 1 = e.station % 256 ∧ b 2 = e.detail.toNat
      ∧ b 3 = e.ended.toNat + 2 * e.acknowledged.toNat ∧ b 4 = e.occurrences.toNat
      ∧ b 5 = position + i ∧ b 6 + 256 * b 7 = e.lastCycle.toNat % 65536 := by
  obtain ⟨rest, hrest⟩ := f.exists_drop_reports_eq hi he
  have byte (j : Nat) : (f.reports position).getD (8 * i + j) 0
      = (e.report (position + i) false ++ rest).getD j 0 := by
    rw [← hrest, List.getD_eq_getElem?_getD, List.getD_eq_getElem?_getD, List.getElem?_drop]
  simp only [byte]
  exact ⟨rfl, BitVec.toNat_ofNat e.station 8, rfl, e.flags_listed_toNat, rfl,
    (BitVec.toNat_ofNat (position + i) 8).trans (Nat.mod_eq_of_lt hp), littleEndian_lowHalf e.lastCycle⟩

/-! ### The request -/

/-- R147: the kinds of `takenIn_idle_config_run` are taken in no other state. -/
theorem RequestKind.takenIn_eq_false_of_not_idle_config_run {k : RequestKind} {e : EngineState}
    (hk : k ∈ [RequestKind.ackFault, .readFaults, .resume])
    (he : e ∉ [EngineState.idle, .config, .run]) : k.takenIn e = false := by
  simp only [List.mem_cons, List.not_mem_nil, or_false] at hk
  rcases hk with rfl | rfl | rfl <;> cases e <;> simp_all [RequestKind.takenIn]

/-- R133: a position past the last of the list is refused. -/
theorem State.onReadFaults_of_bad_position {s : State} {q : ControlRequest} (hq : s.sc.request = some q)
    (hp : 15 < q.record.paramA.toNat) :
    s.onReadFaults q.record = s.controlAnswered q (.rejected .badParameter) [] [] := by
  rw [State.onReadFaults, if_pos hp, State.answer_of_request hq]

/-- R133: the reports are read, and the overflow count is cleared after the read where CLEAR is set. -/
theorem State.onReadFaults_of_position {s : State} {q : ControlRequest} (hq : s.sc.request = some q)
    (hp : q.record.paramA.toNat ≤ 15) :
    s.onReadFaults q.record = State.controlAnswered
      (if q.record[1].getLsbD 1 then { s with fl := { s.fl with overflow := 0 } } else s) q .ok
      ([BitVec.ofNat 8 s.fl.entries.length] ++ halfBytes s.fl.overflow
        ++ [BitVec.ofNat 8 (min 4 (s.fl.entries.length - q.record.paramA.toNat))])
      (s.fl.reports q.record.paramA.toNat) := by
  have count : byteOf ((s.fl.reports q.record.paramA.toNat).length / 8)
      = BitVec.ofNat 8 (min 4 (s.fl.entries.length - q.record.paramA.toNat)) := by
    rw [FaultList.reports_length, Nat.mul_div_cancel_left _ (by decide), byteOf]
  simp only [State.onReadFaults, if_neg (Nat.not_lt.mpr hp), State.completeControl_of_request hq,
    Record.clearFlag, count]
  split <;> rfl

/-- Settles O31: the data are the reports, whose bytes `reports_bytes` gives. -/
theorem readFaultsReports : Obligations.ReadFaultsReports := by
  intro s q happ gate from'
  have applied (ho : gate) : exec .readFaults s = .next (s.onReadFaults q.record) :=
    congrArg Host.Outcome.next
      (State.applyControl_of_applies _ happ (RequestKind.takenIn_idle_config_run (by simp) ho))
  refine ⟨fun ho => ?_, fun ho hp => ?_, fun ho hp _ =>
    ⟨s.fl.reports from', ?_, s.fl.reports_length from', fun i e hi he => ?_⟩⟩
  · exact congrArg Host.Outcome.next (State.applyControl_refused _ happ
      (RequestKind.takenIn_eq_false_of_not_idle_config_run (by simp) ho))
  · rw [applied ho, State.onReadFaults_of_bad_position happ.1 hp]
  · rw [applied ho, State.onReadFaults_of_position happ.1 hp]
    rfl
  · have fourth : i < 4 := Nat.lt_of_lt_of_le hi (Nat.min_le_left _ _)
    exact FaultList.reports_bytes fourth he (by omega)

end Sys2Proof.Machine
end

section
/-! A raise and an end of cause at the fault list (R125 to R127), each as one change (R135). -/

namespace Sys2Proof.Machine

/-! ### The entry of a kind and station -/

theorem FaultEntry.isFor_iff {kind : FaultKind} {station : Nat} {e : FaultEntry} :
    e.isFor kind station = true ↔ e.kind = kind ∧ e.station = station := by
  simp [FaultEntry.isFor]

theorem FaultEntry.isFor_eq_false_iff {kind : FaultKind} {station : Nat} {e : FaultEntry} :
    e.isFor kind station = false ↔ e.kind ≠ kind ∨ e.station ≠ station := by
  rw [← Bool.not_eq_true, FaultEntry.isFor_iff, not_and_or]

section
variable {kind : FaultKind} {station : Nat} {f : FaultList} {before after : List FaultEntry} {e : FaultEntry}

/-- The first entry of the kind and station is the one found. -/
theorem FaultList.position_eq_some (hf : f.entries = before ++ e :: after)
    (hb : ∀ x ∈ before, x.isFor kind station = false) (he : e.isFor kind station = true) :
    f.position kind station = some before.length := by
  rw [FaultList.position, hf, List.findIdx?_append, List.findIdx?_eq_none_iff.mpr hb]
  simp [List.findIdx?_cons, he]

theorem FaultList.position_eq_none (h : ∀ x ∈ f.entries, x.isFor kind station = false) :
    f.position kind station = none :=
  List.findIdx?_eq_none_iff.mpr h

theorem FaultList.any_isFor_eq_false (h : ∀ x ∈ f.entries, x.isFor kind station = false) :
    f.entries.any (FaultEntry.isFor kind station) = false :=
  List.any_eq_false.mpr fun x hx => by simp [h x hx]

/-! ### A raise -/

/-- A raise leaves the entries of the other pairs as they are. -/
theorem map_raised_of_others {l : List FaultEntry} (h : ∀ x ∈ l, x.isFor kind station = false)
    (detail : Byte) (cycle : Word) : l.map (FaultEntry.raised kind station detail cycle) = l :=
  (List.map_congr_left fun x hx => by simp [FaultEntry.raised, h x hx]).trans l.map_id

/-- R125: a raise of a listed pair folds into its entry. -/
theorem FaultList.raise_of_listed (hf : f.entries = before ++ e :: after)
    (hb : ∀ x ∈ before, x.isFor kind station = false) (ha : ∀ x ∈ after, x.isFor kind station = false)
    (he : e.isFor kind station = true) (detail : Byte) (cycle : Word) :
    f.raise kind station detail cycle =
      { f with entries := before ++ e.fold detail cycle :: after }.change (some (.entry kind station)) := by
  have listed : f.entries.any (FaultEntry.isFor kind station) = true := by simp [hf, he]
  have folded : f.entries.map (FaultEntry.raised kind station detail cycle)
      = before ++ e.fold detail cycle :: after := by
    rw [hf, List.map_append, List.map_cons, map_raised_of_others hb, map_raised_of_others ha,
      FaultEntry.raised, if_pos he]
  rw [FaultList.raise, if_pos listed, folded]

/-- R126: a raise of a pair not listed makes a new entry while there is room. -/
theorem FaultList.raise_of_room (h : ∀ x ∈ f.entries, x.isFor kind station = false)
    (room : f.entries.length < Config.faultListSize) (detail : Byte) (cycle : Word) :
    f.raise kind station detail cycle =
      { f with entries := f.entries ++ [FaultEntry.new kind station detail cycle] }.change
        (some (.entry kind station)) := by
  rw [FaultList.raise, if_neg (by simp [FaultList.any_isFor_eq_false h]), if_pos room]

/-- R126: a raise of a pair not listed overflows a full list, and what was carried stays. -/
theorem FaultList.raise_of_full (h : ∀ x ∈ f.entries, x.isFor kind station = false)
    (full : Config.faultListSize ≤ f.entries.length) (detail : Byte) (cycle : Word) :
    f.raise kind station detail cycle = { f with overflow := satInc f.overflow }.change none := by
  rw [FaultList.raise, if_neg (by simp [FaultList.any_isFor_eq_false h]), if_neg (Nat.not_lt.mpr full)]

/-! ### An end of cause -/

/-- R127: an end of cause at the entry of its pair, by the cause and the acknowledgement of that entry. -/
theorem FaultList.endCause_of_listed (hf : f.entries = before ++ e :: after)
    (hb : ∀ x ∈ before, x.isFor kind station = false) (he : e.isFor kind station = true) :
    f.endCause kind station =
      if e.ended then f
      else if e.acknowledged then
        { f with entries := before ++ after }.change (some (.removed { e with ended := true } before.length))
      else
        { f with entries := before ++ { e with ended := true } :: after }.change
          (some (.entry kind station)) := by
  have found : f.entries[before.length]? = some e := by simp [hf]
  have erased : f.entries.eraseIdx before.length = before ++ after := by
    simp [hf, List.eraseIdx_append_of_length_le]
  have ended : f.entries.set before.length { e with ended := true }
      = before ++ { e with ended := true } :: after := by simp [hf]
  simp only [FaultList.endCause, FaultList.position_eq_some hf hb he, found, FaultList.remove, erased, ended]

/-- R127: an end of cause of a pair not listed does nothing. -/
theorem FaultList.endCause_of_not_listed (h : ∀ x ∈ f.entries, x.isFor kind station = false) :
    f.endCause kind station = f := by
  simp only [FaultList.endCause, FaultList.position_eq_none h]

end

/-- Settles O54: the list either holds the one entry of the pair, or none. -/
theorem faultListRaisesAndEnds : Obligations.FaultListRaisesAndEnds := by
  intro f kind station detail cycle other changed
  have others {l : List FaultEntry} (h : ∀ x ∈ l, other x) : ∀ x ∈ l, x.isFor kind station = false :=
    fun x hx => FaultEntry.isFor_eq_false_iff.mpr (h x hx)
  refine ⟨fun before e after hf hb ha hk hs => ?_, fun h => ?_⟩
  · have he : e.isFor kind station = true := FaultEntry.isFor_iff.mpr ⟨hk, hs⟩
    rw [FaultList.endCause_of_listed hf (others hb) he]
    refine ⟨FaultList.raise_of_listed hf (others hb) (others ha) he detail cycle,
      fun ended => ?_, fun active unacknowledged => ?_, fun active acknowledged => ?_⟩
    · rw [if_pos ended]
    · rw [if_neg (by simp [active]), if_neg (by simp [unacknowledged])]
      rfl
    · rw [if_neg (by simp [active]), if_pos acknowledged]
      rfl
  · exact ⟨FaultList.endCause_of_not_listed (others h),
      fun room => FaultList.raise_of_room (others h) room detail cycle,
      fun full => FaultList.raise_of_full (others h) full detail cycle⟩

end Sys2Proof.Machine
end

section
/-! The end of the descriptor read (R145, R167, R191): a descriptor block gives an attachment exactly when
it is valid, and then the one made of its six words. -/

namespace Sys2Proof.Machine

/-! ### The words and the rings of a descriptor block -/

theorem descriptorWord_toNat (d : Vector Byte 24) (i : Fin 6) :
    (descriptorWord d (4 * i.val)).toNat = descriptorNat d i := by
  have byte (j : Nat) (h : j < 24) : d.toList.getD j 0 = d[j] := by
    simp [List.getD_eq_getElem?_getD, h]
  simp only [descriptorWord, descriptorNat, ← littleEndian_four, littleEndian,
    byte (4 * i.val) (by omega), byte (4 * i.val + 1) (by omega), byte (4 * i.val + 2) (by omega),
    byte (4 * i.val + 3) (by omega)]
  omega

/-- R191: two words give a ring exactly when the base is aligned and the count is one of the seven. -/
theorem ringOf_eq_some_iff {base count : Word} {ring : Ring} :
    ringOf base count = some ring ↔
      (base.toNat % 64 = 0 ∧ count.toNat ∈ [16, 32, 64, 128, 256, 512, 1024])
        ∧ ring = { base := base, count := count.toNat } := by
  by_cases valid : base.toNat % 64 = 0 ∧ count.toNat ∈ [16, 32, 64, 128, 256, 512, 1024]
  · rw [ringOf_of_valid valid.1 valid.2]
    simp only [Option.some.injEq, valid, and_self, true_and, eq_comm]
  · rw [ringOf_of_not_valid valid]
    simp only [reduceCtorEq, valid, false_and]

/-- R167: the attachment made of the words of a descriptor block, whatever they hold. -/
def descriptorRings (d : Vector Byte 24) : RingAttachment where
  control := { base := descriptorWord d 0, count := (descriptorWord d 4).toNat }
  transfer := { base := descriptorWord d 8, count := (descriptorWord d 12).toNat }
  completion := { base := descriptorWord d 16, count := (descriptorWord d 20).toNat }

/-- A descriptor block gives an attachment when its three pairs of words each give a ring. -/
theorem attachmentOf_eq_some_iff_rings {d : Vector Byte 24} {a : RingAttachment} :
    attachmentOf d = some a ↔
      ringOf (descriptorWord d 0) (descriptorWord d 4) = some a.control
      ∧ ringOf (descriptorWord d 8) (descriptorWord d 12) = some a.transfer
      ∧ ringOf (descriptorWord d 16) (descriptorWord d 20) = some a.completion := by
  obtain ⟨c, t, p⟩ := a
  unfold attachmentOf
  split
  · next hc ht hp => simp only [hc, ht, hp, Option.some.injEq, RingAttachment.mk.injEq]
  · next missing => exact ⟨nofun, fun ⟨hc, ht, hp⟩ => (missing _ _ _ hc ht hp).elim⟩

/-- The condition of R191 pair by pair, on the words as they are read. -/
theorem descriptorValid_iff (d : Vector Byte 24) : descriptorValid d ↔
    ((descriptorWord d 0).toNat % 64 = 0
      ∧ (descriptorWord d 4).toNat ∈ [16, 32, 64, 128, 256, 512, 1024])
    ∧ ((descriptorWord d 8).toNat % 64 = 0
      ∧ (descriptorWord d 12).toNat ∈ [16, 32, 64, 128, 256, 512, 1024])
    ∧ ((descriptorWord d 16).toNat % 64 = 0
      ∧ (descriptorWord d 20).toNat ∈ [16, 32, 64, 128, 256, 512, 1024]) := by
  simp only [descriptorValid, ← descriptorWord_toNat, List.forall_mem_cons, List.not_mem_nil,
    false_imp_iff, implies_true, and_true, Fin.coe_ofNat_eq_mod, Nat.reduceMod, Nat.reduceMul]
  tauto

/-- R145, R191: the judgement of a descriptor block. -/
theorem attachmentOf_eq_some_iff {d : Vector Byte 24} {a : RingAttachment} :
    attachmentOf d = some a ↔ descriptorValid d ∧ a = descriptorRings d := by
  obtain ⟨c, t, p⟩ := a
  simp only [attachmentOf_eq_some_iff_rings, ringOf_eq_some_iff, descriptorValid_iff, descriptorRings,
    RingAttachment.mk.injEq]
  tauto

theorem attachmentOf_of_valid {d : Vector Byte 24} (h : descriptorValid d) :
    attachmentOf d = some (descriptorRings d) :=
  attachmentOf_eq_some_iff.mpr ⟨h, rfl⟩

theorem attachmentOf_of_not_valid {d : Vector Byte 24} (h : ¬ descriptorValid d) :
    attachmentOf d = none :=
  Option.eq_none_iff_forall_ne_some.mpr fun _ ha => h (attachmentOf_eq_some_iff.mp ha).1

/-! ### The end of the read -/

/-- R145, R167: a valid block attaches its rings and takes the engine to IDLE. -/
theorem State.onDescriptorEnd_of_valid {s : State} {d : Vector Byte 24} (hoff : s.sc.engine = .off)
    (hread : s.sc.descriptorRead.isSome = true) (hd : descriptorValid d) :
    s.onDescriptorEnd (.data d) = { s with
      sc := { s.sc with descriptorRead := none, engine := .idle }
      hqi := s.hqi.attach (descriptorRings d) } := by
  simp only [State.onDescriptorEnd, if_pos (And.intro hoff hread), attachmentOf_of_valid hd]

/-- R145: an error response and an invalid block end the read alike. -/
theorem State.onDescriptorEnd_of_bad {s : State} {r : DescriptorEnd} (hoff : s.sc.engine = .off)
    (hread : s.sc.descriptorRead.isSome = true)
    (hr : r = .error ∨ ∃ d, r = .data d ∧ ¬ descriptorValid d) :
    s.onDescriptorEnd r = s.badDescriptor := by
  rcases hr with rfl | ⟨d, rfl, hd⟩
  · simp only [State.onDescriptorEnd, if_pos (And.intro hoff hread)]
  · simp only [State.onDescriptorEnd, if_pos (And.intro hoff hread), attachmentOf_of_not_valid hd]

/-- Settles O8: a valid block attaches the rings made of its words, and every other end is a bad descriptor. -/
theorem descriptorReadJudged : Obligations.DescriptorReadJudged := by
  intro s hoff hread
  refine ⟨fun d hd => ⟨_, descriptorRings d,
    congrArg Host.Outcome.next (State.onDescriptorEnd_of_valid hoff hread hd), rfl,
    descriptorWord_toNat d 0, descriptorWord_toNat d 1, descriptorWord_toNat d 2,
    descriptorWord_toNat d 3, descriptorWord_toNat d 4, descriptorWord_toNat d 5⟩, fun r hr => ?_⟩
  exact congrArg Host.Outcome.next (State.onDescriptorEnd_of_bad hoff hread hr)

end Sys2Proof.Machine
end

section
/-! OPEN_SESSION (R148, R149, R190): the checks of its parameters as one list in the order of the table, and
the session it opens when all of them pass. -/

namespace Sys2Proof.Machine

/-! ### The checks in order -/

/-- The option bits that are not used are 0 exactly when the byte is below 4. -/
theorem reservedOptions_eq_zero_iff (b : Byte) : b.extractLsb' 2 6 = 0 ↔ b.toNat < 4 := by
  have := b.isLt
  rw [← BitVec.toNat_inj, BitVec.extractLsb'_toNat, Nat.shiftRight_eq_div_pow]
  simp only [BitVec.ofNat_eq_ofNat, BitVec.toNat_ofNat]
  omega

/-- The twelve checks of R190, in order. -/
def SessionParams.checks (p : SessionParams) : List Bool :=
  [inRange 0 4 p.bitRate, inRange 20 5000 p.responseTimeout, inRange 2 16 p.gap,
    p.period = 0 || inRange 200 100000 p.period, inRange 1 8 p.budget, inRange 1 8 p.attemptLimit,
    inRange 0 15 p.waitLimit, inRange 100 25500 p.backoff, p.holdTime = 0 || inRange 10 60000 p.holdTime,
    decide (p.options.extractLsb' 2 6 = 0), inRange 1 64 p.threshold, inRange 0 10000 p.delay]

/-- R148: the number of the first parameter out of range is the place of the first check that fails. -/
theorem SessionParams.firstBad_eq (p : SessionParams) :
    p.firstBad = (p.checks.findIdx? (!·)).map (· + 1) := by
  simp only [SessionParams.firstBad, SessionParams.checks, List.findIdx?_cons, List.findIdx?_nil,
    apply_ite (Option.map _), Option.map_some, Option.map_none, Bool.not_eq_true',
    decide_eq_false_iff_not]

/-- R190: the checks, as conditions on the bytes of the record. -/
theorem Record.sessionChecks_eq (r : Record) : r.sessionParams.checks.map (· = true) =
    [fieldAt r 8 1 ≤ 4, 20 ≤ fieldAt r 10 2 ∧ fieldAt r 10 2 ≤ 5000,
      2 ≤ fieldAt r 9 1 ∧ fieldAt r 9 1 ≤ 16,
      fieldAt r 12 4 = 0 ∨ (200 ≤ fieldAt r 12 4 ∧ fieldAt r 12 4 ≤ 100000),
      1 ≤ fieldAt r 16 1 ∧ fieldAt r 16 1 ≤ 8, 1 ≤ fieldAt r 17 1 ∧ fieldAt r 17 1 ≤ 8,
      fieldAt r 18 1 ≤ 15, 100 ≤ fieldAt r 20 2 ∧ fieldAt r 20 2 ≤ 25500,
      fieldAt r 22 2 = 0 ∨ (10 ≤ fieldAt r 22 2 ∧ fieldAt r 22 2 ≤ 60000),
      fieldAt r 19 1 < 4, 1 ≤ fieldAt r 24 1 ∧ fieldAt r 24 1 ≤ 64, fieldAt r 26 2 ≤ 10000] := by
  simp [SessionParams.checks, Record.sessionParams_eq, inRange, fieldAt_one r 19,
    ← reservedOptions_eq_zero_iff]

/-- A check that fails after others that all pass is the one whose number is answered. -/
theorem SessionParams.firstBad_of_failed {p : SessionParams} {before rest : List Prop} {bad : Prop}
    (hchecks : p.checks.map (· = true) = before ++ bad :: rest) (hbefore : ∀ g ∈ before, g) (hbad : ¬ bad) :
    p.firstBad = some (before.length + 1) := by
  obtain ⟨passed, others, hsplit, rfl, hothers⟩ := List.map_eq_append_iff.mp hchecks
  obtain ⟨failed, rest', rfl, rfl, rfl⟩ := List.map_eq_cons_iff.mp hothers
  have passed_true : ∀ ok ∈ passed, ok = true := List.forall_mem_map.mp hbefore
  have none_fails : passed.findIdx? (!·) = none :=
    List.findIdx?_eq_none_iff.mpr fun ok hok => by simp [passed_true ok hok]
  simp [SessionParams.firstBad_eq, hsplit, List.findIdx?_append, none_fails, List.findIdx?_cons, hbad]

theorem SessionParams.firstBad_of_passed {p : SessionParams} (h : ∀ g ∈ p.checks.map (· = true), g) :
    p.firstBad = none := by
  have all_true : ∀ ok ∈ p.checks, ok = true := List.forall_mem_map.mp h
  rw [SessionParams.firstBad_eq, Option.map_eq_none_iff, List.findIdx?_eq_none_iff]
  exact fun ok hok => by simp [all_true ok hok]

/-! ### The session that opens -/

/-- R2: a code that has a bit rate names it. -/
theorem BitRate.ofCode_of_getElem? {n : Nat} {rate : BitRate}
    (h : [BitRate.k500, .m1, .m2, .m4, .m8][n]? = some rate) : BitRate.ofCode n = rate := by
  match n, h with
  | 0, h | 1, h | 2, h | 3, h | 4, h => exact Option.some.inj h

/-- R190: option bit 0 of the options byte. -/
theorem SessionParams.syncOption_eq (p : SessionParams) :
    p.syncOption = decide (p.options.toNat % 2 = 1) :=
  Nat.testBit_zero _

/-- R190: option bit 1 of an options byte that passes its check. -/
theorem SessionParams.stateEvents_eq {p : SessionParams} (h : p.options.toNat < 4) :
    p.stateEvents = decide (2 ≤ p.options.toNat) := by
  simp only [SessionParams.stateEvents, BitVec.getLsbD, Nat.testBit_eq_decide_div_mod_eq,
    decide_eq_decide]
  omega

/-- R148: OPEN_SESSION with a parameter out of range. -/
theorem State.onOpenSession_of_bad {s : State} {q : ControlRequest} {n : Nat}
    (hq : s.sc.request = some q) (hn : q.record.sessionParams.firstBad = some n) :
    s.onOpenSession q.record = s.controlAnswered q (.rejected .badParameter) [byteOf n] [] := by
  simp only [State.onOpenSession, hn, State.completeControl_of_request hq]

/-- R149: OPEN_SESSION with all parameters in range. -/
theorem State.onOpenSession_of_good {s : State} {q : ControlRequest}
    (hq : s.sc.request = some q) (hn : q.record.sessionParams.firstBad = none) :
    s.onOpenSession q.record = (s.openSession q.record.sessionParams).controlAnswered q .ok [] [] := by
  have request : (s.openSession q.record.sessionParams).sc.request = some q := hq
  simp only [State.onOpenSession, hn, State.answer_of_request request]

/-- Settles O20: the first failed check gives the number that is answered, and with none the session opens. -/
theorem openSessionJudgesParameters : Obligations.OpenSessionJudgesParameters := by
  intro s q happ hidle p good
  have checks : q.record.sessionParams.checks.map (· = true) = good := q.record.sessionChecks_eq
  have taken : RequestKind.openSession.takenIn s.sc.engine = true := by rw [hidle]; rfl
  have applied : exec .openSession s = .next (s.onOpenSession q.record) :=
    congrArg Host.Outcome.next (State.applyControl_of_applies _ happ taken)
  refine ⟨fun before bad rest hgood hbefore hbad => ?_, fun hgood rate hrate => ?_⟩
  · rw [applied, State.onOpenSession_of_bad happ.1
      (SessionParams.firstBad_of_failed (checks.trans hgood) hbefore hbad), byteOf]
  · have options : p 19 1 = q.record[19].toNat := fieldAt_one q.record 19 (by omega)
    have reserved : q.record[19].toNat < 4 := by
      rw [← options]
      exact hgood _ (by simp [good])
    rw [applied, State.onOpenSession_of_good happ.1 (SessionParams.firstBad_of_passed (checks ▸ hgood)),
      State.openSession, LineController.openSession, Scheduler.openSession, SessionParams.syncOption_eq,
      SessionParams.stateEvents_eq reserved, Record.sessionParams_eq]
    have code : BitRate.ofCode (fieldAt q.record 8 1) = rate := BitRate.ofCode_of_getElem? hrate
    simp only [code, options]
    rfl

end Sys2Proof.Machine
end

section
/-! A write to COMPLETION_HEAD (R168, R169, R185): where the index registers are judged, what the judgement
compares, and what a valid write leaves of the age timer. -/

namespace Sys2Proof.Machine

/-! ### Where the index registers are judged -/

theorem EngineState.attached_iff {e : EngineState} : e.attached = true ↔ e ≠ .off := by
  cases e <;> decide

/-- R168: in OFF a write to an index register is ignored. -/
theorem State.judgedWrite_of_off {s : State} (hoff : s.sc.engine = .off)
    (f : RingAttachment → HostQueue → HostQueue) : s.judgedWrite f = s :=
  if_neg fun attached => EngineState.attached_iff.mp attached hoff

/-- R168: with rings attached the write is judged by the attachment. -/
theorem State.judgedWrite_of_attachment {s : State} {a : RingAttachment}
    (ha : s.hqi.attachment = some a) (hon : s.sc.engine ≠ .off)
    (f : RingAttachment → HostQueue → HostQueue) : s.judgedWrite f = { s with hqi := f a s.hqi } := by
  simp only [State.judgedWrite, if_pos (EngineState.attached_iff.mpr hon), ha]

/-! ### The judgement and the move -/

section
variable {h : HostQueue} {a : RingAttachment}

theorem HostQueue.unread_of_attachment (ha : h.attachment = some a) :
    h.unread = span a.completion.count h.completionHead h.completionTail := by
  simp only [HostQueue.unread, ha]

/-- R169: a value past the entries or off the span from head to tail is refused. -/
theorem HostQueue.writeCompletionHead_of_refused (ha : h.attachment = some a) {v : Word}
    (hv : a.completion.count ≤ v.toNat ∨ span a.completion.count h.completionHead h.completionTail
      < span a.completion.count h.completionHead v.toNat) :
    h.writeCompletionHead a.completion.count v = { h with completionHeadMark := true } := by
  refine if_neg fun ⟨below, onSpan⟩ => ?_
  rw [h.unread_of_attachment ha] at onSpan
  omega

/-- R169: a value below the entry count and on the span from head to tail moves the head. -/
theorem HostQueue.writeCompletionHead_of_valid (ha : h.attachment = some a) {v : Word}
    (below : v.toNat < a.completion.count)
    (onSpan : span a.completion.count h.completionHead v.toNat
      ≤ span a.completion.count h.completionHead h.completionTail) :
    h.writeCompletionHead a.completion.count v = h.moveCompletionHead v.toNat :=
  if_pos ⟨below, (h.unread_of_attachment ha).symm ▸ onSpan⟩

/-- R185: the ring is left empty exactly when the head moves up to the tail; then the age timer stops. -/
theorem HostQueue.moveCompletionHead_eq (ha : h.attachment = some a) {i : Nat}
    (hi : i < a.completion.count) (ht : h.completionTail < a.completion.count) :
    h.moveCompletionHead i =
      if i = h.completionTail then
        { h with completionHead := i, completionHeadMark := false, ageTimer := none, delayReached := false }
      else { h with completionHead := i, completionHeadMark := false } := by
  have unread : ({ h with completionHead := i, completionHeadMark := false } : HostQueue).unread
      = span a.completion.count i h.completionTail := HostQueue.unread_of_attachment ha
  simp only [HostQueue.moveCompletionHead, unread, (span_eq_zero_iff hi ht).trans eq_comm]

end

/-! ### The write -/

/-- R165: the register takes its judged write, and the access is answered without error. -/
theorem exec_completionHeadWrite (v : Word) (s : State) :
    exec (.completionHeadWrite v) s = .next
      { s.judgedWrite (fun a h => h.writeCompletionHead a.completion.count v) with bus := .written } :=
  rfl

theorem exec_completionHeadWrite_of_off {s : State} (hoff : s.sc.engine = .off) (v : Word) :
    exec (.completionHeadWrite v) s = .next { s with bus := .written } := by
  rw [exec_completionHeadWrite, State.judgedWrite_of_off hoff]

theorem exec_completionHeadWrite_of_attachment {s : State} {a : RingAttachment}
    (ha : s.hqi.attachment = some a) (hon : s.sc.engine ≠ .off) (v : Word) :
    exec (.completionHeadWrite v) s =
      .next { s with hqi := s.hqi.writeCompletionHead a.completion.count v, bus := .written } := by
  rw [exec_completionHeadWrite, State.judgedWrite_of_attachment ha hon]

/-- Settles O6: the judgement compares the two spans from the head, and the tail is the one value on the span
that empties the ring. -/
theorem completionHeadWriteJudged : Obligations.CompletionHeadWriteJudged := by
  intro s v
  refine ⟨fun hoff => exec_completionHeadWrite_of_off hoff v, fun a ha hon _ ht => ?_⟩
  rw [exec_completionHeadWrite_of_attachment ha hon]
  refine ⟨fun refused => ?_, fun below onSpan hne => ?_, fun heq => ?_⟩
  · rw [HostQueue.writeCompletionHead_of_refused ha refused]
  · rw [HostQueue.writeCompletionHead_of_valid ha below onSpan,
      HostQueue.moveCompletionHead_eq ha below ht, if_neg hne]
  · have below : v.toNat < a.completion.count := heq ▸ ht
    rw [HostQueue.writeCompletionHead_of_valid ha below (by rw [heq]),
      HostQueue.moveCompletionHead_eq ha below ht, if_pos heq]

end Sys2Proof.Machine
end

section
/-! What every step keeps, block by block (R36, R98, R124, R173, R176, R178): what carries the soundness of one
block over a change of it, one lemma for each kind of change. -/

namespace Sys2Proof.Machine

/-! ### The fault list (R124) -/

/-- R124: soundness asks of the entries alone. -/
theorem FaultList.Sound.congr {f g : FaultList} (h : g.entries = f.entries) : f.Sound → g.Sound := by
  unfold FaultList.Sound
  rw [h]
  exact id

theorem FaultList.Sound.sublist {f g : FaultList} (h : g.entries.Sublist f.entries) :
    f.Sound → g.Sound :=
  fun ⟨size, distinct, single⟩ =>
    ⟨h.length_le.trans size, distinct.sublist h, fun e he => single e (h.subset he)⟩

/-- Entries may change as long as each keeps its pair and does not come to be both ENDED and acknowledged. -/
theorem FaultList.Sound.map {f g : FaultList} (change : FaultEntry → FaultEntry)
    (h : g.entries = f.entries.map change)
    (pair : ∀ e, (change e).kind = e.kind ∧ (change e).station = e.station)
    (single : ∀ e ∈ f.entries, ¬ (e.ended = true ∧ e.acknowledged = true) →
      ¬ ((change e).ended = true ∧ (change e).acknowledged = true)) : f.Sound → g.Sound := by
  intro ⟨size, distinct, hsingle⟩
  refine ⟨by simpa [h] using size, ?_, ?_⟩
  · rw [h, List.pairwise_map]
    exact distinct.imp fun {a b} hab => by rwa [(pair a).1, (pair a).2, (pair b).1, (pair b).2]
  · intro x hx
    obtain ⟨e, he, rfl⟩ := List.mem_map.mp (h ▸ hx)
    exact single e he (hsingle e he)

/-- One entry may be replaced by one of its pair that is not both ENDED and acknowledged. -/
theorem FaultList.Sound.replace {f g : FaultList} {before after : List FaultEntry} {e e' : FaultEntry}
    (hf : f.entries = before ++ e :: after) (hg : g.entries = before ++ e' :: after)
    (kind : e'.kind = e.kind) (station : e'.station = e.station)
    (single : ¬ (e'.ended = true ∧ e'.acknowledged = true)) : f.Sound → g.Sound := by
  intro ⟨size, distinct, hsingle⟩
  rw [hf] at size distinct hsingle
  refine ⟨by rw [hg]; simpa using size, ?_, ?_⟩
  · rw [hg]
    simpa only [List.pairwise_append, List.pairwise_cons, List.mem_cons, forall_eq_or_imp, kind, station]
      using distinct
  · rw [hg]
    intro x hx
    rcases List.mem_append.mp hx with hx | hx
    · exact hsingle x (List.mem_append_left _ hx)
    · rcases List.mem_cons.mp hx with rfl | hx
      · exact single
      · exact hsingle x (List.mem_append_right _ (List.mem_cons_of_mem _ hx))

theorem FaultList.raise_sound (kind : FaultKind) (station : Nat) (detail : Byte) (cycle : Word)
    (f : FaultList) : f.Sound → (f.raise kind station detail cycle).Sound := by
  unfold FaultList.raise
  split
  · refine .map (FaultEntry.raised kind station detail cycle) rfl (fun e => ?_) (fun e _ he => ?_)
    · unfold FaultEntry.raised; split <;> exact ⟨rfl, rfl⟩
    · unfold FaultEntry.raised; split
      · simp [FaultEntry.fold]
      · exact he
  · rename_i absent
    split
    · rename_i room
      rintro ⟨-, distinct, hsingle⟩
      refine ⟨by simpa [FaultList.change, Config.faultListSize] using room, ?_, ?_⟩
      · refine List.pairwise_append.mpr ⟨distinct, List.pairwise_singleton _ _, fun a ha b hb => ?_⟩
        obtain rfl := List.mem_singleton.mp hb
        refine FaultEntry.isFor_eq_false_iff.mp (Bool.eq_false_iff.mpr fun hfor => ?_)
        exact absent (List.any_eq_true.mpr ⟨a, ha, hfor⟩)
      · intro e he
        rcases List.mem_append.mp he with he | he
        · exact hsingle e he
        · obtain rfl := List.mem_singleton.mp he
          simp [FaultEntry.new]
    · exact .congr rfl

/-- A list holds the entry of a pair somewhere, with none of the pair before it, or not at all. -/
theorem FaultList.listed_or_not (kind : FaultKind) (station : Nat) (f : FaultList) :
    (∃ before e after, f.entries = before ++ e :: after
      ∧ (∀ x ∈ before, x.isFor kind station = false) ∧ e.isFor kind station = true)
    ∨ ∀ x ∈ f.entries, x.isFor kind station = false := by
  cases h : f.entries.find? (FaultEntry.isFor kind station) with
  | none => exact .inr fun x hx => Bool.eq_false_iff.mpr (List.find?_eq_none.mp h x hx)
  | some e =>
    obtain ⟨he, before, after, hf, hb⟩ := List.find?_eq_some_iff_append.mp h
    exact .inl ⟨before, e, after, hf, fun x hx => by simpa using hb x hx, he⟩

theorem FaultList.endCause_sound (kind : FaultKind) (station : Nat) (f : FaultList) :
    f.Sound → (f.endCause kind station).Sound := by
  rcases f.listed_or_not kind station with ⟨before, e, after, hf, hb, he⟩ | absent
  · rw [FaultList.endCause_of_listed hf hb he]
    split
    · exact id
    · split
      · exact .sublist (by simp [hf, FaultList.change])
      · exact .replace hf rfl rfl rfl (by simp_all)
  · rw [FaultList.endCause_of_not_listed absent]
    exact id

/-- R130: an acknowledgement of the entry of a pair, by its cause and its acknowledgement. -/
theorem FaultList.acknowledge_of_listed {kind : FaultKind} {station : Nat} {f : FaultList}
    {before after : List FaultEntry} {e : FaultEntry} (hf : f.entries = before ++ e :: after)
    (hb : ∀ x ∈ before, x.isFor kind station = false) (he : e.isFor kind station = true) :
    f.acknowledge kind station =
      if e.ended then
        some ({ f with entries := before ++ after }.change
          (some (.removed { e with acknowledged := true } before.length)), 1, 1)
      else if e.acknowledged then some (f, 0, 0)
      else
        some ({ f with entries := before ++ { e with acknowledged := true } :: after }.change
          (some (.entry kind station)), 1, 0) := by
  have found : f.entries[before.length]? = some e := by simp [hf]
  have erased : f.entries.eraseIdx before.length = before ++ after := by
    simp [hf, List.eraseIdx_append_of_length_le]
  have marked : f.entries.set before.length { e with acknowledged := true }
      = before ++ { e with acknowledged := true } :: after := by simp [hf]
  simp only [FaultList.acknowledge, FaultList.position_eq_some hf hb he, found, FaultList.remove, erased,
    marked]

/-- R130: a pair not listed has nothing to acknowledge. -/
theorem FaultList.acknowledge_of_not_listed {kind : FaultKind} {station : Nat} {f : FaultList}
    (h : ∀ x ∈ f.entries, x.isFor kind station = false) : f.acknowledge kind station = none := by
  simp only [FaultList.acknowledge, FaultList.position_eq_none h]

/-! ### The mark of an event source -/

/-- The in-staging mark stays, and the event goes pending only while the mark is clear. -/
def MarkKept (pending inStaging pending' inStaging' : Bool) : Prop :=
  inStaging' = inStaging ∧ (pending' = true → pending = true ∨ inStaging = false)

theorem MarkKept.refl (p m : Bool) : MarkKept p m p m := ⟨rfl, .inl⟩

/-- A source that has more to report goes pending unless its record is in staging. -/
theorem MarkKept.more (p m : Bool) : MarkKept p m (p || !m) m := ⟨rfl, by simp⟩

theorem MarkKept.dropped (p m : Bool) : MarkKept p m false m := ⟨rfl, by simp⟩

theorem MarkKept.trans {p m p' m' p'' m'' : Bool} (h : MarkKept p m p' m') (h' : MarkKept p' m' p'' m'') :
    MarkKept p m p'' m'' :=
  ⟨h'.1.trans h.1, fun hp => (h'.2 hp).elim h.2 fun hm => .inr (h.1 ▸ hm)⟩

theorem oneUnposted.of_kept {p m p' m' : Bool} {n : Nat} (h : MarkKept p m p' m') :
    oneUnposted p m n → oneUnposted p' m' n := by
  obtain ⟨rfl, hp⟩ := h
  exact fun ⟨one, staged⟩ => ⟨fun ⟨hp', hm⟩ => (hp hp').elim (fun h => one ⟨h, hm⟩) (by simp [hm]), staged⟩

/-- The record of a pending event enters staging: its pending flag is cleared and its mark set. -/
theorem oneUnposted.granted {m : Bool} {n : Nat} : oneUnposted true m n → oneUnposted false true (n + 1) := by
  rintro ⟨one, staged⟩
  cases m <;> simp_all [oneUnposted]

/-- The record of an event leaves staging: its mark is cleared. -/
theorem oneUnposted.posted {p p' m : Bool} {n : Nat} : oneUnposted p m (n + 1) → oneUnposted p' false n := by
  rintro ⟨-, staged⟩
  have : m.toNat ≤ 1 := Bool.toNat_le m
  exact ⟨by simp, by simp; omega⟩

/-! ### What a change of the fault list keeps -/

/-- The entries stay sound and the FAULT event's mark is kept. -/
structure FaultList.KeepsSound (f g : FaultList) : Prop where
  sound : f.Sound → g.Sound
  mark : MarkKept f.pending f.inStaging g.pending g.inStaging

theorem FaultList.KeepsSound.refl (f : FaultList) : f.KeepsSound f := ⟨id, .refl _ _⟩

theorem FaultList.KeepsSound.trans {f g h : FaultList} (a : f.KeepsSound g) (b : g.KeepsSound h) :
    f.KeepsSound h := ⟨b.sound ∘ a.sound, a.mark.trans b.mark⟩

theorem FaultList.raise_keepsSound (kind : FaultKind) (station : Nat) (detail : Byte) (cycle : Word)
    (f : FaultList) : f.KeepsSound (f.raise kind station detail cycle) := by
  refine ⟨f.raise_sound kind station detail cycle, ?_⟩
  unfold FaultList.raise
  split
  · exact .more _ _
  · split <;> exact .more _ _

theorem FaultList.endCause_keepsSound (kind : FaultKind) (station : Nat) (f : FaultList) :
    f.KeepsSound (f.endCause kind station) := by
  refine ⟨f.endCause_sound kind station, ?_⟩
  rcases f.listed_or_not kind station with ⟨before, e, after, hf, hb, he⟩ | absent
  · rw [FaultList.endCause_of_listed hf hb he]
    split
    · exact .refl _ _
    · split <;> exact .more _ _
  · rw [FaultList.endCause_of_not_listed absent]
    exact .refl _ _

theorem FaultList.acknowledge_keepsSound {kind : FaultKind} {station : Nat} {f : FaultList}
    {a : FaultList × Nat × Nat} (h : f.acknowledge kind station = some a) : f.KeepsSound a.1 := by
  rcases f.listed_or_not kind station with ⟨before, e, after, hf, hb, he⟩ | absent
  · rw [FaultList.acknowledge_of_listed hf hb he] at h
    split at h
    · obtain rfl := Option.some.inj h
      exact ⟨.sublist (by simp [hf, FaultList.change]), .more _ _⟩
    · split at h
      · obtain rfl := Option.some.inj h
        exact .refl f
      · obtain rfl := Option.some.inj h
        exact ⟨.replace hf rfl rfl rfl (by simp_all), .more _ _⟩
  · rw [FaultList.acknowledge_of_not_listed absent] at h
    cases h

theorem FaultList.acknowledgeAll_keepsSound (f : FaultList) : f.KeepsSound f.acknowledgeAll.1 := by
  obtain ⟨entries, -, mark, -, pending, -⟩ := f.acknowledgeAll_spec
  refine ⟨fun hf => ?_, mark, by rw [pending]; grind⟩
  have active : ({ f with entries := f.entries.filter fun e => !e.ended } : FaultList).Sound :=
    .sublist List.filter_sublist hf
  refine FaultList.Sound.map (fun e => { e with acknowledged := true }) entries (fun _ => ⟨rfl, rfl⟩)
    (fun e he _ => ?_) active
  have : e.ended = false := by simpa using (List.mem_filter.mp he).2
  simp [this]

theorem FaultList.endAll_keepsSound (f : FaultList) : f.KeepsSound f.endAll := by
  obtain ⟨entries, -, mark, -, pending, -⟩ := f.endAll_spec
  refine ⟨fun hf => ?_, mark, by rw [pending]; grind⟩
  have stay : ({ f with entries := f.entries.filter fun e => e.ended || !e.acknowledged } : FaultList).Sound :=
    .sublist List.filter_sublist hf
  refine FaultList.Sound.map (fun e => { e with ended := true }) entries (fun _ => ⟨rfl, rfl⟩)
    (fun e he h => ?_) stay
  have : e.ended = true ∨ e.acknowledged = false := by simpa using (List.mem_filter.mp he).2
  rcases this with ended | unacknowledged
  · simpa [ended] using h
  · simp [unacknowledged]

/-! ### What a change of a station entry keeps (R36, R49, R84) -/

/-- The entry stays sound and the marks of its two reports are kept. -/
structure Station.KeepsSound (e e' : Station) : Prop where
  sound : e.Sound → e'.Sound
  report : MarkKept e.report.pending e.report.inStaging e'.report.pending e'.report.inStaging
  change : MarkKept e.change.pending e.change.inStaging e'.change.pending e'.change.inStaging

theorem Station.KeepsSound.refl (e : Station) : e.KeepsSound e := ⟨id, .refl _ _, .refl _ _⟩

theorem Station.KeepsSound.trans {e e' e'' : Station} (a : e.KeepsSound e') (b : e'.KeepsSound e'') :
    e.KeepsSound e'' := ⟨b.sound ∘ a.sound, a.report.trans b.report, a.change.trans b.change⟩

/-- R36: soundness asks of the state, the miss count and limit, and inputs valid. -/
theorem Station.Sound.congr {e e' : Station} (state : e'.state = e.state) (limit : e'.missLimit = e.missLimit)
    (count : e'.missCount = e.missCount) (inputs : e'.inputsValid = e.inputsValid) : e.Sound → e'.Sound := by
  unfold Station.Sound
  rw [state, limit, count, inputs]
  exact id

/-- R36: an entry with no misses, out of LOST, is sound where inputs are valid only in service. -/
theorem Station.Sound.of_no_misses {e : Station} (limit : 1 ≤ e.missLimit) (count : e.missCount = 0)
    (state : e.state ≠ .lost) (inputs : e.inputsValid = true → e.state = .active ∨ e.state = .degraded) :
    e.Sound :=
  ⟨limit, by omega, ⟨fun h => by omega, fun h => absurd h state⟩, fun h => absurd count h, inputs⟩

/-- R48: a move makes at most a state report, which goes pending only while none is in staging. -/
theorem Station.moveTo_mark (stateEvents : Bool) (dest : StationState) (e : Station) :
    MarkKept e.report.pending e.report.inStaging (e.moveTo stateEvents dest).report.pending
      (e.moveTo stateEvents dest).report.inStaging := by
  unfold Station.moveTo
  split
  · exact .refl _ _
  · split
    · exact .more _ _
    · exact .refl _ _

/-- R48: what a move leaves alone. -/
theorem Station.moveTo_rest (stateEvents : Bool) (dest : StationState) (e : Station) :
    (e.moveTo stateEvents dest).missLimit = e.missLimit
    ∧ (e.moveTo stateEvents dest).missCount = e.missCount
    ∧ (e.moveTo stateEvents dest).inputsValid = e.inputsValid
    ∧ (e.moveTo stateEvents dest).change = e.change := by
  rw [Station.moveTo_eq]
  exact ⟨rfl, rfl, rfl, rfl⟩

/-- R29, R34, R40: a move that comes with a change of the miss count and of inputs valid. -/
theorem Station.KeepsSound.of_move {e e' : Station} (stateEvents : Bool) (dest : StationState)
    (report : e'.report = (e.moveTo stateEvents dest).report) (change : e'.change = e.change)
    (sound : e.Sound → e'.Sound) : e.KeepsSound e' :=
  ⟨sound, report ▸ e.moveTo_mark stateEvents dest, change ▸ .refl _ _⟩

end Sys2Proof.Machine
end

section
/-! What every step keeps, over the whole state: a relation that carries the soundness of every block, and the
rules by which a change of one block has it. -/

namespace Sys2Proof.Machine

/-! ### The transaction table (R98, R101) -/

/-- A slot keeps its place in the lists as long as its station stays and its state stays or goes from one
unfinished state to another. -/
theorem State.SlotsSound.of_states {s t : State} (age : t.tt.age = s.tt.age)
    (done : t.tt.doneQueue = s.tt.doneQueue) (fifos : t.tt.fifos = s.tt.fifos)
    (station : ∀ i, (t.slot i).station = (s.slot i).station)
    (state : ∀ i, (t.slot i).state = (s.slot i).state
      ∨ ((s.slot i).state.unfinished = true ∧ (t.slot i).state.unfinished = true))
    (inHand : ∀ i k, t.cs.inHand = some (.attempt i k) →
      (t.slot i).state = .onLink ∧ (t.slot i).station = some k) : s.SlotsSound → t.SlotsSound := by
  intro ⟨ageNodup, hage, doneNodup, hdone, hstation, hfifo, _⟩
  have free (i : SlotId) : (t.slot i).state ≠ .free ↔ (s.slot i).state ≠ .free := by
    rcases state i with h | ⟨h, h'⟩
    · rw [h]
    · constructor <;> intro _ e <;> simp_all [SlotState.unfinished]
  have isDone (i : SlotId) : (t.slot i).state = .done ↔ (s.slot i).state = .done := by
    rcases state i with h | ⟨h, h'⟩
    · rw [h]
    · constructor <;> intro e <;> simp_all [SlotState.unfinished]
  have unfinished (i : SlotId) : (t.slot i).state.unfinished = (s.slot i).state.unfinished := by
    rcases state i with h | ⟨h, h'⟩
    · rw [h]
    · rw [h, h']
  refine ⟨age ▸ ageNodup, fun i => ?_, done ▸ doneNodup, fun i => ?_, fun i hi => ?_, fun k => ?_, inHand⟩
  · rw [age, free]; exact hage i
  · rw [done, isDone]; exact hdone i
  · rw [station]; exact hstation i ((free i).mp hi)
  · have := hfifo k
    simp only [State.fifo] at this ⊢
    simp only [fifos, age, this, unfinished, station]

/-- R111: an unfinished slot that is not in hand leaves its FIFO and joins the done queue. -/
theorem State.SlotsSound.of_done {s t : State} {i : SlotId} {k : StationId}
    (hk : (s.slot i).station = some k) (hi : (s.slot i).state.unfinished = true)
    (age : t.tt.age = s.tt.age) (done : t.tt.doneQueue = s.tt.doneQueue ++ [i])
    (state : (t.slot i).state = .done) (station : (t.slot i).station = some k)
    (others : ∀ j, j ≠ i → t.slot j = s.slot j)
    (fifo : t.fifo k = (s.fifo k).filter (· ≠ i)) (fifos : ∀ j, j ≠ k → t.fifo j = s.fifo j)
    (inHand : ∀ j l, t.cs.inHand = some (.attempt j l) → j ≠ i ∧ s.cs.inHand = some (.attempt j l)) :
    s.SlotsSound → t.SlotsSound := by
  intro ⟨ageNodup, hage, doneNodup, hdone, hstation, hfifo, hinHand⟩
  have notDone : i ∉ s.tt.doneQueue := fun h => by simp [(hdone i).mp h, SlotState.unfinished] at hi
  have notFree : (s.slot i).state ≠ .free := fun h => by simp [h, SlotState.unfinished] at hi
  refine ⟨age ▸ ageNodup, fun j => ?_, ?_, fun j => ?_, fun j hj => ?_, fun j => ?_, fun j l h => ?_⟩
  · by_cases hj : j = i
    · subst hj; simp [age, hage, state, notFree]
    · rw [age, others j hj]; exact hage j
  · rw [done]
    exact List.nodup_append.mpr ⟨doneNodup, List.nodup_singleton i,
      by simpa using fun j hj => ne_of_mem_of_not_mem hj notDone⟩
  · by_cases hj : j = i
    · subst hj; simp [done, state]
    · rw [done, others j hj]; simpa [hj] using hdone j
  · by_cases h : j = i
    · subst h; simp [station]
    · rw [others j h] at hj ⊢; exact hstation j hj
  · have filtered : t.fifo j = (s.fifo j).filter (· ≠ i) := by
      by_cases hj : j = k
      · subst hj; exact fifo
      · rw [fifos j hj, eq_comm, List.filter_eq_self, hfifo j]
        intro x hx
        have hxj : (s.slot x).station = some j := by
          simpa using ((Bool.and_eq_true _ _).mp (List.mem_filter.mp hx).2).2
        have : x ≠ i := by rintro rfl; exact hj (Option.some.inj (hxj.symm.trans hk))
        simpa using this
    rw [filtered, hfifo j, List.filter_filter, age]
    refine List.filter_congr fun x _ => ?_
    by_cases hx : x = i
    · subst hx; simp [state, SlotState.unfinished]
    · simp [others x hx, hx]
  · obtain ⟨hne, hs⟩ := inHand j l h
    rw [others j hne]
    exact hinHand j l hs

/-- R100: a FREE slot is taken at the end of the age list and of its station's FIFO. -/
theorem State.SlotsSound.of_accept {s t : State} {i : SlotId} {k : StationId}
    (hi : (s.slot i).state = .free) (age : t.tt.age = s.tt.age ++ [i])
    (done : t.tt.doneQueue = s.tt.doneQueue)
    (state : (t.slot i).state = .queued) (station : (t.slot i).station = some k)
    (others : ∀ j, j ≠ i → t.slot j = s.slot j)
    (fifo : t.fifo k = s.fifo k ++ [i]) (fifos : ∀ j, j ≠ k → t.fifo j = s.fifo j)
    (inHand : t.cs.inHand = s.cs.inHand) : s.SlotsSound → t.SlotsSound := by
  intro ⟨ageNodup, hage, doneNodup, hdone, hstation, hfifo, hinHand⟩
  have fresh : i ∉ s.tt.age := fun h => (hage i).mp h hi
  have filtered (j : StationId) : s.tt.age.filter (fun x => (t.slot x).state.unfinished && (t.slot x).station = some j)
      = s.fifo j := by
    rw [hfifo j]
    exact List.filter_congr fun x hx => by rw [others x (ne_of_mem_of_not_mem hx fresh)]
  refine ⟨?_, fun j => ?_, done ▸ doneNodup, fun j => ?_, fun j hj => ?_, fun j => ?_, fun j l h => ?_⟩
  · rw [age]
    exact List.nodup_append.mpr ⟨ageNodup, List.nodup_singleton i,
      by simpa using fun j hj => ne_of_mem_of_not_mem hj fresh⟩
  · by_cases hj : j = i
    · subst hj; simp [age, state]
    · rw [age, others j hj]; simpa [hj] using hage j
  · by_cases hj : j = i
    · subst hj; simp [done, hdone, state, hi]
    · rw [done, others j hj]; exact hdone j
  · by_cases h : j = i
    · subst h; simp [station]
    · rw [others j h] at hj ⊢; exact hstation j hj
  · rw [age, List.filter_append, filtered j]
    by_cases hj : j = k
    · subst hj; simp [fifo, state, station, SlotState.unfinished]
    · simp [fifos j hj, station, Ne.symm hj]
  · obtain ⟨honLink, hl⟩ := hinHand j l (inHand ▸ h)
    have : j ≠ i := by rintro rfl; simp [hi] at honLink
    rw [others j this]
    exact ⟨honLink, hl⟩

/-- R112: a DONE slot leaves the done queue and the age list and becomes FREE. -/
theorem State.SlotsSound.of_free {s t : State} {i : SlotId} (hi : (s.slot i).state = .done)
    (age : t.tt.age = s.tt.age.filter (· ≠ i)) (done : t.tt.doneQueue = s.tt.doneQueue.filter (· ≠ i))
    (fifos : t.tt.fifos = s.tt.fifos) (state : (t.slot i).state = .free)
    (others : ∀ j, j ≠ i → t.slot j = s.slot j) (inHand : t.cs.inHand = s.cs.inHand) :
    s.SlotsSound → t.SlotsSound := by
  intro ⟨ageNodup, hage, doneNodup, hdone, hstation, hfifo, hinHand⟩
  refine ⟨age ▸ ageNodup.filter _, fun j => ?_, done ▸ doneNodup.filter _, fun j => ?_, fun j hj => ?_,
    fun j => ?_, fun j l h => ?_⟩
  · by_cases hj : j = i
    · subst hj; simp [age, state]
    · rw [age, others j hj]; simpa [hj] using hage j
  · by_cases hj : j = i
    · subst hj; simp [done, state]
    · rw [done, others j hj]; simpa [hj] using hdone j
  · by_cases h : j = i
    · subst h; exact absurd state hj
    · rw [others j h] at hj ⊢; exact hstation j hj
  · have : t.fifo j = s.fifo j := by simp only [State.fifo, fifos]
    rw [this, hfifo j, age, List.filter_filter]
    refine List.filter_congr fun x _ => ?_
    by_cases hx : x = i
    · subst hx; simp [hi, SlotState.unfinished]
    · simp [others x hx, hx]
  · obtain ⟨honLink, hl⟩ := hinHand j l (inHand ▸ h)
    have : j ≠ i := by rintro rfl; simp [hi] at honLink
    rw [others j this]
    exact ⟨honLink, hl⟩

/-! ### The queues (R173, R176, R178) -/

/-- What the host queues have in flight: the staged records, and what holds a submission ring or the master port. -/
def HostQueue.inFlight (h : HostQueue) : List StagedRecord × Option Fetch × Option Record
    × Option TakenRecord × Option Completion × Option PostWrite :=
  (h.staging, h.fetch, h.heldCopy, h.taken, h.nonSlot, h.post)

theorem HostQueue.inFlight_inj {h h' : HostQueue} (e : h'.inFlight = h.inFlight) :
    h'.staging = h.staging ∧ h'.fetch = h.fetch ∧ h'.heldCopy = h.heldCopy ∧ h'.taken = h.taken
    ∧ h'.nonSlot = h.nonSlot ∧ h'.post = h.post := by
  simpa [HostQueue.inFlight] using e

/-- How many records of the transfer ring are read, held, taken or answered. -/
def HostQueue.transferHolds (h : HostQueue) : Nat :=
  (h.fetching .transfer).toNat + h.heldCopy.isSome.toNat + h.taken.isSome.toNat + h.nonSlot.isSome.toNat

/-- R176: a change that lets go of holds, and takes none, keeps the rings sound. -/
theorem State.RingsSound.of_le {s t : State} (holds : t.hqi.transferHolds ≤ s.hqi.transferHolds)
    (control : t.hqi.fetching .control = true → s.hqi.fetching .control = true)
    (request : t.sc.request.isSome = true → s.sc.request.isSome = true)
    (fetch : t.hqi.fetch.isSome = true → s.hqi.fetch.isSome = true)
    (post : t.hqi.post.isSome = true → s.hqi.post.isSome = true) : s.RingsSound → t.RingsSound :=
  fun ⟨one, noRead, port⟩ =>
    ⟨holds.trans one, fun ⟨h, h'⟩ => noRead ⟨control h, request h'⟩,
      fun ⟨h, h'⟩ => port ⟨fetch h, post h'⟩⟩

theorem State.RingsSound.of_inFlight {s t : State} (queue : t.hqi.inFlight = s.hqi.inFlight)
    (request : t.sc.request.isSome = true → s.sc.request.isSome = true) : s.RingsSound → t.RingsSound := by
  obtain ⟨-, fetch, held, taken, nonSlot, post⟩ := HostQueue.inFlight_inj queue
  refine .of_le (le_of_eq ?_) ?_ request (by rw [fetch]; exact id) (by rw [post]; exact id)
  · simp only [HostQueue.transferHolds, HostQueue.fetching, fetch, held, taken, nonSlot]
  · simp only [HostQueue.fetching, fetch]; exact id

/-- R178: with the buffer as it is, each source keeps its mark. -/
theorem State.StagingSound.of_marks {s t : State} (staging : t.hqi.staging = s.hqi.staging)
    (fault : MarkKept s.fl.pending s.fl.inStaging t.fl.pending t.fl.inStaging)
    (safe : MarkKept s.hm.event.pending s.hm.event.inStaging t.hm.event.pending t.hm.event.inStaging)
    (station : ∀ k, MarkKept (s.station k).report.pending (s.station k).report.inStaging
        (t.station k).report.pending (t.station k).report.inStaging
      ∧ MarkKept (s.station k).change.pending (s.station k).change.inStaging
        (t.station k).change.pending (t.station k).change.inStaging) : s.StagingSound → t.StagingSound := by
  have staged (o : Owner) : t.hqi.stagedFor o = s.hqi.stagedFor o := by
    simp only [HostQueue.stagedFor, staging]
  intro ⟨size, hfault, hsafe, hreport, hchange⟩
  exact ⟨staging ▸ size, staged _ ▸ hfault.of_kept fault, staged _ ▸ hsafe.of_kept safe,
    fun k => staged _ ▸ (hreport k).of_kept (station k).1, fun k => staged _ ▸ (hchange k).of_kept (station k).2⟩

/-! ### The whole state -/

/-- From `s` to `t` every block stays sound; for the transaction table that is said where `A` holds, which is what a
delivery knows of the slot whose attempt has ended. -/
structure State.KeepsSound (A : Prop) (s t : State) : Prop where
  faults : s.fl.Sound → t.fl.Sound
  stations : s.StationsSound → t.StationsSound
  slots : A → s.SlotsSound → t.SlotsSound
  staging : s.StagingSound → t.StagingSound
  rings : s.RingsSound → t.RingsSound

section
variable {A : Prop} {s t u : State}

theorem State.KeepsSound.refl (s : State) : s.KeepsSound A s := ⟨id, id, fun _ => id, id, id⟩

theorem State.KeepsSound.trans (a : s.KeepsSound A t) (b : t.KeepsSound A u) : s.KeepsSound A u :=
  ⟨b.faults ∘ a.faults, b.stations ∘ a.stations, fun h => b.slots h ∘ a.slots h, b.staging ∘ a.staging,
    b.rings ∘ a.rings⟩

theorem State.KeepsSound.foldl {α : Type} {g : State → α → State}
    (h : ∀ (s : State) (x : α), s.KeepsSound A (g s x)) (l : List α) :
    ∀ s : State, s.KeepsSound A (l.foldl g s) := by
  induction l with
  | nil => exact .refl
  | cons x l ih => exact fun s => (h s x).trans (ih _)

/-- A change of several blocks, each of which keeps what is asked of it. -/
theorem State.KeepsSound.of_blocks (faults : s.fl.KeepsSound t.fl)
    (stations : ∀ k, (s.station k).KeepsSound (t.station k)) (slots : A → s.SlotsSound → t.SlotsSound)
    (safe : MarkKept s.hm.event.pending s.hm.event.inStaging t.hm.event.pending t.hm.event.inStaging)
    (staging : t.hqi.staging = s.hqi.staging) (rings : s.RingsSound → t.RingsSound) : s.KeepsSound A t where
  faults := faults.sound
  stations := fun h k => (stations k).sound (h k)
  slots := slots
  staging := .of_marks staging faults.mark safe fun k => ⟨(stations k).report, (stations k).change⟩
  rings := rings

/-- The lists of slots stand as they did, and no other attempt is in hand. -/
theorem State.SlotsSound.of_tt (tt : t.tt = s.tt)
    (inHand : ∀ i k, t.cs.inHand = some (.attempt i k) → s.cs.inHand = some (.attempt i k)) :
    s.SlotsSound → t.SlotsSound := fun h =>
  have slot (i : SlotId) : t.slot i = s.slot i := State.slot_congr tt i
  .of_states (by rw [tt]) (by rw [tt]) (by rw [tt]) (fun i => by rw [slot]) (fun i => .inl (by rw [slot]))
    (fun i k hi => by rw [slot]; exact h.2.2.2.2.2.2 i k (inHand i k hi)) h

/-- A change of the fault list, the station table, the SAFE event and of what no soundness asks for. -/
theorem State.KeepsSound.of_owners (faults : s.fl.KeepsSound t.fl)
    (stations : ∀ k, (s.station k).KeepsSound (t.station k)) (tt : t.tt = s.tt)
    (inHand : ∀ i k, t.cs.inHand = some (.attempt i k) → s.cs.inHand = some (.attempt i k))
    (safe : MarkKept s.hm.event.pending s.hm.event.inStaging t.hm.event.pending t.hm.event.inStaging)
    (queue : t.hqi.inFlight = s.hqi.inFlight)
    (request : t.sc.request.isSome = true → s.sc.request.isSome = true) : s.KeepsSound A t :=
  .of_blocks faults stations (fun _ => .of_tt tt inHand) safe (HostQueue.inFlight_inj queue).1 (.of_inFlight queue request)

/-- A change of what no soundness asks for. -/
theorem State.KeepsSound.of_rest (fl : t.fl = s.fl) (st : t.st = s.st) (tt : t.tt = s.tt)
    (inHand : ∀ i k, t.cs.inHand = some (.attempt i k) → s.cs.inHand = some (.attempt i k))
    (event : t.hm.event = s.hm.event) (queue : t.hqi.inFlight = s.hqi.inFlight)
    (request : t.sc.request.isSome = true → s.sc.request.isSome = true) : s.KeepsSound A t :=
  .of_owners (fl ▸ .refl _) (fun k => State.station_congr st k ▸ .refl _) tt inHand (event ▸ .refl _ _) queue
    request

/-- A change of the fault list alone. -/
theorem State.KeepsSound.of_fl (h : t = { s with fl := t.fl }) (faults : s.fl.KeepsSound t.fl) :
    s.KeepsSound A t := by
  rw [h]
  exact .of_owners faults (fun _ => .refl _) rfl (fun _ _ => id) (.refl _ _) rfl id

/-- A change of the transaction table alone. -/
theorem State.KeepsSound.of_slots (h : t = { s with tt := t.tt }) (slots : A → s.SlotsSound → t.SlotsSound) :
    s.KeepsSound A t := by
  refine .of_blocks ?_ (fun k => ?_) slots ?_ ?_ ?_
  · rw [h]; exact .refl _
  · rw [State.station_congr (show t.st = s.st by rw [h]) k]; exact .refl _
  · rw [h]; exact .refl _ _
  · rw [h]
  · rw [h]; exact id

/-- A change of one station entry alone. -/
theorem State.KeepsSound.of_station {k : StationId} {f : Station → Station}
    (h : (s.station k).KeepsSound (f (s.station k))) : s.KeepsSound A (s.updStation k f) := by
  refine .of_owners (.refl _) (fun j => ?_) rfl (fun _ _ => id) (.refl _ _) rfl id
  by_cases hj : j = k
  · subst hj; rw [State.updStation_station]; exact h
  · rw [State.updStation_station_ne k j f s hj]; exact .refl _

end

end Sys2Proof.Machine
end

section
/-! What every step keeps, operation by operation: faults, stations, confirms, slots and the reports of an
exchange to its owner. -/

namespace Sys2Proof.Machine

variable {A : Prop}

/-! ### Faults and requests -/

theorem State.raise_keepsSound (kind : FaultKind) (n : Nat) (b : Byte) (s : State) :
    s.KeepsSound A (s.raise kind n b) := .of_fl rfl (s.fl.raise_keepsSound kind n b s.cs.cycle)

theorem State.endCause_keepsSound (kind : FaultKind) (n : Nat) (s : State) :
    s.KeepsSound A (s.endCause kind n) := .of_fl rfl (s.fl.endCause_keepsSound kind n)

theorem State.completeControl_keepsSound (status : Status) (extra data : List Byte) (s : State) :
    s.KeepsSound A (s.completeControl status extra data) := by
  cases h : s.sc.request with
  | none => simp only [State.completeControl, h]; exact .refl s
  | some q =>
    rw [State.completeControl_of_request h]
    exact .of_rest rfl rfl rfl (fun _ _ => id) rfl rfl (by simp [h])

theorem State.answer_keepsSound (status : Status) (s : State) : s.KeepsSound A (s.answer status) :=
  s.completeControl_keepsSound status [] []

theorem State.deferControl_keepsSound (s : State) : s.KeepsSound A s.deferControl :=
  .of_rest rfl rfl rfl (fun _ _ => id) rfl rfl (by simp [State.deferControl])

theorem State.reportLine_keepsSound (s : State) : s.KeepsSound A s.reportLine :=
  .of_rest rfl rfl rfl (fun _ _ => id) rfl rfl (by simp [State.reportLine])

theorem State.answerAbort_keepsSound (aborted : Bool) (index : Nat) (status : Status) (s : State) :
    s.KeepsSound A (s.answerAbort aborted index status) := by
  unfold State.answerAbort
  split
  · exact s.completeControl_keepsSound _ _ _
  · exact .refl s

theorem State.countUnexpected_keepsSound (s : State) : s.KeepsSound A s.countUnexpected := by
  unfold State.countUnexpected
  refine .trans (t := { s with lc := { s.lc with
    unexpected := s.lc.unexpected + 1, perCycle := satInc s.lc.perCycle } })
    (.of_rest rfl rfl rfl (fun _ _ => id) rfl rfl id) ?_
  dsimp only
  split
  · exact State.raise_keepsSound _ _ _ _
  · exact .refl _

/-! ### Stations -/

theorem State.updStation_updStation (k : StationId) (f g : Station → Station) (s : State) :
    (s.updStation k f).updStation k g = s.updStation k (fun e => g (f e)) := by
  simp [State.updStation]

/-- R29, R34, R40: a move of a station that comes with a change of its other fields but its reports. -/
theorem State.moveStation_updStation_keepsSound {s : State} {k : StationId} {dest : StationState}
    {f : Station → Station} (report : ∀ e, (f e).report = e.report) (change : ∀ e, (f e).change = e.change)
    (sound : (s.station k).Sound → (f ((s.station k).moveTo s.st.stateEvents dest)).Sound) :
    s.KeepsSound A ((s.moveStation k dest).updStation k f) := by
  rw [State.moveStation, State.updStation_updStation]
  exact .of_station (.of_move s.st.stateEvents dest (report _) ((change _).trans (Station.moveTo_rest _ _ _).2.2.2)
    sound)

/-- R29, R30, R39 to R41: a station moves to a state other than LOST with its misses cleared. -/
theorem State.moveStation_cleared_keepsSound {s : State} {k : StationId} {dest : StationState}
    {f : Station → Station} (hf : ∀ e, (f e).state = e.state ∧ (f e).missLimit = e.missLimit
      ∧ (f e).missCount = 0 ∧ (f e).report = e.report ∧ (f e).change = e.change) (hd : dest ≠ .lost)
    (inputs : (s.station k).Sound → (f ((s.station k).moveTo s.st.stateEvents dest)).inputsValid = true →
      dest = .active ∨ dest = .degraded) : s.KeepsSound A ((s.moveStation k dest).updStation k f) := by
  refine State.moveStation_updStation_keepsSound (fun e => (hf e).2.2.2.1) (fun e => (hf e).2.2.2.2) fun h => ?_
  obtain ⟨state, limit, count, -, -⟩ := hf ((s.station k).moveTo s.st.stateEvents dest)
  rw [Station.moveTo_state] at state
  refine .of_no_misses ?_ count (by rw [state]; exact hd) (by rw [state]; exact inputs h)
  rw [limit, (Station.moveTo_rest _ _ _).1]
  exact h.1

/-- An entry may change in what R36 does not ask of and the reports do not hold. -/
theorem State.updStation_keepsSound {s : State} {k : StationId} {f : Station → Station}
    (h : ∀ e, (f e).state = e.state ∧ (f e).missLimit = e.missLimit ∧ (f e).missCount = e.missCount
      ∧ (f e).inputsValid = e.inputsValid ∧ (f e).report = e.report ∧ (f e).change = e.change) :
    s.KeepsSound A (s.updStation k f) := by
  obtain ⟨state, limit, count, inputs, report, change⟩ := h (s.station k)
  exact .of_station ⟨.congr state limit count inputs, report ▸ .refl _ _, change ▸ .refl _ _⟩

theorem State.countReport_keepsSound (k : StationId) (isPoll : Bool) (o : LineOutcome) (s : State) :
    s.KeepsSound A (s.countReport k isPoll o) := by
  unfold State.countReport
  split
  · exact State.updStation_keepsSound fun _ => ⟨rfl, rfl, rfl, rfl, rfl, rfl⟩
  · exact .refl s

theorem State.endConfirm_keepsSound (k : StationId) (status : Status) (s : State) :
    s.KeepsSound A (s.endConfirm k status) := by
  have ended : s.KeepsSound A (s.updStation k (Station.confirmEnded status)) :=
    State.updStation_keepsSound fun e => by
      unfold Station.confirmEnded
      split <;> exact ⟨rfl, rfl, rfl, rfl, rfl, rfl⟩
  rw [State.endConfirm_eq]
  exact ended.trans (.of_rest rfl rfl rfl (fun _ _ => id) rfl rfl id)

theorem State.enterService_keepsSound (k : StationId) (s : State) : s.KeepsSound A (s.enterService k) := by
  have entered : s.KeepsSound A
      ((s.moveStation k .active).updStation k fun e => { e with missCount := 0, statusCode := 0 }) := by
    exact State.moveStation_cleared_keepsSound (fun _ => ⟨rfl, rfl, rfl, rfl, rfl⟩) (by decide)
      fun _ _ => .inl rfl
  unfold State.enterService
  dsimp only
  split
  · exact entered.trans (State.endCause_keepsSound _ _ _)
  · split
    · exact entered.trans (State.endCause_keepsSound _ _ _)
    · exact entered

theorem State.enterMismatch_keepsSound (k : StationId) (s : State) : s.KeepsSound A (s.enterMismatch k) :=
   State.moveStation_cleared_keepsSound (fun _ => ⟨rfl, rfl, rfl, rfl, rfl⟩) (by decide)
    fun _ h => nomatch h

theorem State.goodIdent_keepsSound (k : StationId) (i : Identity) (s : State) :
    s.KeepsSound A (s.goodIdent k i) := by
  have recorded : s.KeepsSound A (s.updStation k (Station.recordIdentity i)) :=
    State.updStation_keepsSound fun _ => ⟨rfl, rfl, rfl, rfl, rfl, rfl⟩
  have differs (u : State) : u.KeepsSound A (u.enterMismatch k) := u.enterMismatch_keepsSound k
  unfold State.goodIdent
  refine recorded.trans ?_
  dsimp only
  generalize s.updStation k (Station.recordIdentity i) = u
  split
  case h_1 | h_2 | h_3 => exact u.enterService_keepsSound k
  case h_4 | h_5 | h_6 | h_7 | h_13 | h_14 => exact .refl u
  case h_8 | h_11 | h_12 =>
    exact (differs u).trans ((State.endCause_keepsSound _ _ _).trans (State.raise_keepsSound _ _ _ _))
  case h_9 | h_10 => exact (differs u).trans (State.raise_keepsSound _ _ _ _)

theorem State.probeReport_keepsSound (k : StationId) (o : LineOutcome) (s : State) :
    s.KeepsSound A (s.probeReport k o) := by
  unfold State.probeReport
  split
  · refine (s.countReport_keepsSound k false o).trans ?_
    split
    · exact State.goodIdent_keepsSound k _ _
    all_goals exact .refl _
  · exact .refl s

theorem State.statusCheck_keepsSound (k : StationId) (code : BitVec 4) (s : State) :
    s.KeepsSound A (s.statusCheck k code) := by
  unfold State.statusCheck
  refine .trans ?_ (State.updStation_keepsSound fun _ => ⟨rfl, rfl, rfl, rfl, rfl, rfl⟩)
  split
  · exact s.raise_keepsSound _ _ _
  · split
    · exact s.endCause_keepsSound _ _
    · exact .refl s

theorem ChangeReport.accumulate_mark (bits : List Byte) (c : ChangeReport) :
    MarkKept c.pending c.inStaging (c.accumulate bits).pending (c.accumulate bits).inStaging := by
  unfold ChangeReport.accumulate
  split
  · split
    · exact .refl _ _
    · exact .more _ _
  · exact .refl _ _

/-- R32: inputs are taken of a station in service. -/
theorem Station.takeInputs_keepsSound (inputs : List Byte) {e : Station}
    (h : e.state = .active ∨ e.state = .degraded) : e.KeepsSound (e.takeInputs inputs) := by
  unfold Station.takeInputs
  split
  · exact ⟨.congr rfl rfl rfl rfl, .refl _ _, e.change.accumulate_mark _⟩
  · exact ⟨fun ⟨limit, count, lost, state, _⟩ => ⟨limit, count, lost, state, fun _ => h⟩, .refl _ _, .refl _ _⟩

theorem State.judgeConfirm_keepsSound (k : StationId) (s : State) : s.KeepsSound A (s.judgeConfirm k) := by
  unfold State.judgeConfirm
  split
  · split
    · exact s.endConfirm_keepsSound k _
    · exact .refl s
  · exact .refl s

/-- The status check leaves the state of the entry as it is. -/
theorem State.statusCheck_state (k : StationId) (code : BitVec 4) (s : State) :
    ((s.statusCheck k code).station k).state = (s.station k).state := by
  unfold State.statusCheck
  rw [State.updStation_station]
  dsimp only
  split
  · rfl
  · split <;> rfl

theorem State.goodPoll_keepsSound (k : StationId) (payload : List Byte) (s : State) :
    s.KeepsSound A (s.goodPoll k payload) := by
  have active : s.KeepsSound A ((s.moveStation k .active).updStation k fun e => { e with missCount := 0 }) := by
    exact State.moveStation_cleared_keepsSound (fun _ => ⟨rfl, rfl, rfl, rfl, rfl⟩) (by decide)
      fun _ _ => .inl rfl
  refine active.trans ((State.statusCheck_keepsSound k _ _).trans (.trans (.of_station
    (Station.takeInputs_keepsSound _ (.inl ?_))) (State.judgeConfirm_keepsSound k _)))
  rw [State.statusCheck_state, State.updStation_station, State.moveStation_station]
  exact Station.moveTo_state _ _ _

/-! ### Slots -/

/-- A change of an unfinished slot that is not in hand, to another unfinished state or none. -/
theorem State.updSlot_keepsSound {s : State} {i : SlotId} {f : Slot → Slot}
    (station : (f (s.slot i)).station = (s.slot i).station)
    (state : A → (f (s.slot i)).state = (s.slot i).state
      ∨ ((s.SlotsSound → ∀ k, s.cs.inHand ≠ some (.attempt i k))
        ∧ (s.slot i).state.unfinished = true ∧ (f (s.slot i)).state.unfinished = true)) :
    s.KeepsSound A (s.updSlot i f) := by
  refine .of_slots rfl fun ha h => ?_
  have slot (j : SlotId) : (s.updSlot i f).slot j = if j = i then f (s.slot i) else s.slot j := by
    split
    · subst j; exact State.updSlot_slot i f s
    · exact State.updSlot_slot_ne i j f s ‹_›
  refine State.SlotsSound.of_states (s := s) rfl rfl rfl (fun j => ?_) (fun j => ?_) (fun j k hj => ?_) h
  · rw [slot]; split
    · subst j; exact station
    · rfl
  · rw [slot]; split
    · subst j; exact (state ha).imp id And.right
    · exact .inl rfl
  · obtain ⟨onLink, named⟩ := h.2.2.2.2.2.2 j k hj
    rw [slot]; split
    · subst j
      rcases state ha with same | ⟨notInHand, -⟩
      · exact ⟨same.trans onLink, station.trans named⟩
      · exact absurd hj (notInHand h k)
    · exact ⟨onLink, named⟩

/-- R111: an unfinished slot that is not in hand becomes DONE. -/
theorem State.slotDone_keepsSound {s : State} {i : SlotId} (status : Status) (data : List Byte) (length : Nat)
    (unfinished : A → (s.slot i).state.unfinished = true)
    (inHand : A → s.SlotsSound → ∀ k, s.cs.inHand ≠ some (.attempt i k)) :
    s.KeepsSound A (s.slotDone i status data length) := by
  cases hk : (s.slot i).station with
  | none =>
    refine .of_slots (by simp [State.slotDone, State.leaveFifo, State.noteUncertain, hk]) fun ha h => ?_
    have notFree : (s.slot i).state ≠ .free := fun e => by
      simpa [e, SlotState.unfinished] using unfinished ha
    simpa [hk] using h.2.2.2.2.1 i notFree
  | some k =>
    rw [State.slotDone_eq s i k hk]
    refine .of_blocks (.refl _) (fun j => ?_) (fun ha h => ?_) (.refl _ _) rfl id
    · by_cases hj : j = k
      · subst hj
        refine ⟨.congr ?_ ?_ ?_ ?_, ?_, ?_⟩ <;> simp [State.station] <;> exact .refl _ _
      · have : j.val ≠ k.val := fun e => hj (Fin.ext e)
        simp [State.station, Ne.symm this]
        exact .refl _
    · have slot (j : SlotId) (hj : j ≠ i) : (s.tt.slots.set i ((s.slot i).doneWith status data length))[j] = s.slot j := by
        have : j.val ≠ i.val := fun e => hj (Fin.ext e)
        simp [State.slot, Ne.symm this]
      refine .of_done hk (unfinished ha) rfl rfl ?_ ?_ slot ?_ (fun j hj => ?_) (fun j l hj => ⟨?_, hj⟩) h
      · simp [State.slot, Slot.doneWith]
      · simpa [State.slot, Slot.doneWith] using hk
      · simp [State.fifo]
      · have : j.val ≠ k.val := fun e => hj (Fin.ext e)
        simp [State.fifo, Ne.symm this]
      · rintro rfl; exact inHand ha h l hj

end Sys2Proof.Machine
end

section
/-! What every step keeps: slots that end, stations that leave service, and the outcome of an attempt. -/

namespace Sys2Proof.Machine

variable {A : Prop}

/-! ### Slots that end -/

/-- A QUEUED or BACKOFF slot is not the one in hand. -/
theorem State.SlotsSound.not_inHand_of_waiting {s : State} {i : SlotId} (h : s.SlotsSound)
    (hi : (s.slot i).state = .queued ∨ (s.slot i).state = .backoff) (k : StationId) :
    s.cs.inHand ≠ some (.attempt i k) := fun hand => by
  obtain ⟨onLink, -⟩ := h.2.2.2.2.2.2 i k hand
  rcases hi with hi | hi <;> rw [hi] at onLink <;> cases onLink

theorem State.endWaiting_keepsSound (status : Status) (s : State) (i : SlotId)
    (hi : (s.slot i).state = .queued ∨ (s.slot i).state = .backoff) : s.KeepsSound A (s.endSlot i status) :=
  State.slotDone_keepsSound status _ 0 (fun _ => by rcases hi with hi | hi <;> rw [hi] <;> rfl)
    fun _ h => h.not_inHand_of_waiting hi

theorem State.endWaitingSlot_keepsSound (status : Status) (s : State) (i : SlotId) :
    s.KeepsSound A (State.endWaitingSlot status s i) := by
  unfold State.endWaitingSlot
  split
  · exact s.endWaiting_keepsSound status i ‹_›
  · exact .refl s

theorem State.endStationSlots_keepsSound (status : Status) (s : State) (k : StationId) :
    s.KeepsSound A (State.endStationSlots status s k) :=
  .foldl (State.endWaitingSlot_keepsSound status) _ s

theorem State.endAllSlots_keepsSound (status : Status) (s : State) : s.KeepsSound A (s.endAllSlots status) := by
  have walked : s.KeepsSound A (allStations.foldl (State.endStationSlots status) s) :=
    .foldl (State.endStationSlots_keepsSound status) allStations s
  unfold State.endAllSlots
  refine walked.trans ?_
  generalize allStations.foldl (State.endStationSlots status) s = u
  exact .of_slots rfl fun _ h => .of_states (s := u) rfl rfl rfl (fun _ => rfl) (fun _ => .inl rfl)
    h.2.2.2.2.2.2 h

/-! ### Stations that leave service -/

theorem State.stationLost_keepsSound (k : StationId) (d : LinkDetail) (s : State) :
    s.KeepsSound A (s.stationLost k d) := by
  have lost : s.KeepsSound A ((s.moveStation k .lost).updStation k fun e =>
      { e with missCount := e.missLimit, inputsValid := false }) := by
    refine State.moveStation_updStation_keepsSound (fun _ => rfl) (fun _ => rfl) fun h => ?_
    have limit : 1 ≤ ((s.station k).moveTo s.st.stateEvents .lost).missLimit := by
      rw [(Station.moveTo_rest _ _ _).1]; exact h.1
    exact ⟨limit, le_rfl, by simp, by simp, by simp⟩
  unfold State.stationLost
  exact lost.trans ((State.endCause_keepsSound _ _ _).trans ((State.raise_keepsSound _ _ _ _).trans
    ((State.endStationSlots_keepsSound _ _ k).trans (State.endConfirm_keepsSound k _ _))))

theorem State.pollMiss_keepsSound (k : StationId) (d : LinkDetail) (s : State) :
    s.KeepsSound A (s.pollMiss k d) := by
  unfold State.pollMiss
  dsimp only
  split
  · rename_i below
    refine State.moveStation_updStation_keepsSound (fun _ => rfl) (fun _ => rfl) fun h => ?_
    obtain ⟨limit, -, -, -⟩ := Station.moveTo_rest s.st.stateEvents .degraded (s.station k)
    refine ⟨by simpa [limit] using h.1, by simp [limit]; omega, ?_, by simp, by simp⟩
    simp [limit]
    omega
  · exact s.stationLost_keepsSound k d

theorem State.pollReport_keepsSound (k : StationId) (o : LineOutcome) (s : State) :
    s.KeepsSound A (s.pollReport k o) := by
  unfold State.pollReport
  split
  · refine (s.countReport_keepsSound k true o).trans ?_
    dsimp only
    split
    · split
      · exact State.goodPoll_keepsSound k _ _
      · exact .refl _
      · exact .refl _
      · exact .refl _
      · exact State.pollMiss_keepsSound k _ _
    · exact .refl _
  · exact .refl s

theorem State.enterRestarting_keepsSound (k : StationId) (s : State) :
    s.KeepsSound A (s.enterRestarting k) := by
  have moved : s.KeepsSound A ((s.moveStation k .restarting).updStation k fun e =>
      { e with missCount := 0, inputsValid := false, restartTimer := some (e.restartDelay * 1000) }) :=
    State.moveStation_cleared_keepsSound (fun _ => ⟨rfl, rfl, rfl, rfl, rfl⟩) (by decide)
      fun _ h => Bool.noConfusion h
  have entered := moved.trans (State.endCause_keepsSound .stationError (address k) _)
  unfold State.enterRestarting
  dsimp only
  split
  · exact entered.trans (State.endCause_keepsSound _ _ _)
  · exact entered

theorem State.endStationCauses_keepsSound (k : StationId) (s : State) :
    s.KeepsSound A (s.endStationCauses k) :=
  .trans (State.endCause_keepsSound _ _ _) (.trans (State.endCause_keepsSound _ _ _)
    (State.endCause_keepsSound _ _ _))

theorem State.stopStation_keepsSound (s : State) (k : StationId) : s.KeepsSound A (s.stopStation k) := by
  unfold State.stopStation
  split
  · have stopped : s.KeepsSound A ((s.moveStation k .probing).updStation k fun e =>
        { e with restartTimer := none, missCount := 0, inputsValid := false }) :=
      State.moveStation_cleared_keepsSound (fun _ => ⟨rfl, rfl, rfl, rfl, rfl⟩) (by decide)
        fun _ h => Bool.noConfusion h
    exact stopped.trans ((State.endStationCauses_keepsSound k _).trans (State.endConfirm_keepsSound k _ _))
  · exact .refl s

theorem Station.vacate_keepsSound (e : Station) : e.KeepsSound e.vacate :=
  ⟨fun h => .of_no_misses h.1 rfl (fun h => nomatch h) (fun h => nomatch h), .dropped _ _, .dropped _ _⟩

theorem Station.emptied_keepsSound (e : Station) : e.KeepsSound e.emptied :=
  ⟨.congr rfl rfl rfl rfl, .refl _ _, .refl _ _⟩

theorem State.closeStation_keepsSound (s : State) (k : StationId) : s.KeepsSound A (s.closeStation k) := by
  unfold State.closeStation
  split
  · exact (s.endConfirm_keepsSound k _).trans (.of_station (Station.vacate_keepsSound _))
  · exact .refl s

theorem State.removeStation_keepsSound (k : StationId) (s : State) : s.KeepsSound A (s.removeStation k) := by
  unfold State.removeStation
  refine (State.endStationSlots_keepsSound _ s k).trans ((State.endConfirm_keepsSound k _ _).trans
    ((State.endStationCauses_keepsSound k _).trans (.of_station ?_)))
  exact (Station.vacate_keepsSound _).trans (Station.emptied_keepsSound _)

/-! ### The outcome of an attempt -/

@[simp] theorem State.enterService_tt (k : StationId) (s : State) : (s.enterService k).tt = s.tt := by
  unfold State.enterService
  dsimp only
  split
  · rfl
  · split <;> rfl

@[simp] theorem State.goodIdent_tt (k : StationId) (i : Identity) (s : State) : (s.goodIdent k i).tt = s.tt := by
  unfold State.goodIdent
  dsimp only
  split
  case h_1 | h_2 | h_3 => exact State.enterService_tt _ _
  all_goals rfl

@[simp] theorem State.countReport_tt (k : StationId) (p : Bool) (o : LineOutcome) (s : State) :
    (s.countReport k p o).tt = s.tt := by
  unfold State.countReport
  split <;> rfl

@[simp] theorem State.resyncAtStation_tt (i : SlotId) (k : StationId) (o : LineOutcome) (s : State) :
    (s.resyncAtStation i k o).tt = s.tt := by
  unfold State.resyncAtStation
  split
  · exact State.goodIdent_tt _ _ _
  · rfl

@[simp] theorem State.enterRestarting_tt (k : StationId) (s : State) : (s.enterRestarting k).tt = s.tt := by
  unfold State.enterRestarting
  dsimp only
  split <;> rfl

@[simp] theorem State.enterRestarting_cs (k : StationId) (s : State) : (s.enterRestarting k).cs = s.cs := by
  unfold State.enterRestarting
  dsimp only
  split <;> rfl

theorem State.KeepsLine.cs {s t : State} (h : s.KeepsLine t) : t.cs = s.cs := by rw [h]

theorem State.resyncAtStation_keepsSound (i : SlotId) (k : StationId) (o : LineOutcome) (s : State) :
    s.KeepsSound A (s.resyncAtStation i k o) := by
  unfold State.resyncAtStation
  split
  · exact s.goodIdent_keepsSound k _
  · exact .refl s

/-- The attempt of slot `i` has ended: the slot is ON_LINK and the CS has let go of it. -/
def State.AttemptEnded (i : SlotId) (s : State) : Prop := (s.slot i).state = .onLink ∧ s.cs.inHand = none

theorem State.AttemptEnded.of_eq {i : SlotId} {s t : State} (tt : t.tt = s.tt) (cs : t.cs = s.cs) :
    s.AttemptEnded i → t.AttemptEnded i := by
  unfold State.AttemptEnded
  rw [State.slot_congr tt i, cs]
  exact id

theorem State.endAttempt_keepsSound {s : State} {i : SlotId} (status : Status) (data : List Byte) (n : Nat)
    (h : A → s.AttemptEnded i) : s.KeepsSound A (s.slotDone i status data n) :=
  State.slotDone_keepsSound status data n (fun a => by rw [(h a).1]; rfl)
    fun a _ k hand => by rw [(h a).2] at hand; cases hand

theorem State.attemptOk_keepsSound (i : SlotId) (k : StationId) (o : LineOutcome) {s : State}
    (h : A → s.AttemptEnded i) : s.KeepsSound A (s.attemptOk i k o) := by
  have toggled : s.KeepsSound A (s.updStation k fun e => { e with toggle := !e.toggle }) :=
    State.updStation_keepsSound fun _ => ⟨rfl, rfl, rfl, rfl, rfl, rfl⟩
  unfold State.attemptOk
  split
  · split
    · exact State.endAttempt_keepsSound _ _ _ h
    all_goals exact .refl s
  · exact toggled.trans (State.endAttempt_keepsSound _ _ _ h)
  · exact toggled.trans ((State.enterRestarting_keepsSound k _).trans (State.endAttempt_keepsSound _ _ _
      fun a => .of_eq (State.enterRestarting_tt k _) (State.enterRestarting_cs k _) (h a)))
  · exact .refl s

/-- R106 to R109: a slot whose attempt has ended goes back to QUEUED or into BACKOFF, or ends. -/
theorem State.attemptGoesOn_keepsSound (i : SlotId) (o : LineOutcome) (same : Bool) {s : State}
    (h : A → s.AttemptEnded i) : s.KeepsSound A (s.attemptGoesOn i o same) := by
  have back (f : Slot → Slot) (station : (f (s.slot i)).station = (s.slot i).station)
      (state : (f (s.slot i)).state.unfinished = true) : s.KeepsSound A (s.updSlot i f) :=
    State.updSlot_keepsSound station fun a => .inr
      ⟨fun _ _ hand => (by rw [(h a).2] at hand; cases hand), by rw [(h a).1]; rfl, state⟩
  have counted (f : Slot → Slot) (status : Status) (station : (f (s.slot i)).station = (s.slot i).station)
      (state : (f (s.slot i)).state = (s.slot i).state) : s.KeepsSound A ((s.updSlot i f).endSlot i status) :=
    .trans (State.updSlot_keepsSound station fun _ => .inl state) (State.endAttempt_keepsSound _ _ _
      fun a => ⟨by rw [State.updSlot_slot, state]; exact (h a).1, (h a).2⟩)
  unfold State.attemptGoesOn
  dsimp only
  split
  case h_1 | h_2 =>
    split
    · exact back _ rfl rfl
    · exact State.endAttempt_keepsSound _ _ _ h
  case h_3 =>
    split
    · exact counted _ _ rfl rfl
    · exact back _ rfl rfl
  case h_4 => exact State.endAttempt_keepsSound _ _ _ h
  case h_5 =>
    split
    · exact back _ rfl rfl
    · exact counted _ _ rfl rfl

theorem State.attemptReport_keepsSound (i : SlotId) (k : StationId) (o : LineOutcome) {s : State}
    (h : A → s.AttemptEnded i) : s.KeepsSound A (s.attemptReport i k o) := by
  unfold State.attemptReport
  refine (s.countReport_keepsSound k false o).trans ?_
  have h' (a : A) : (s.countReport k false o).AttemptEnded i :=
    .of_eq (State.countReport_tt k false o s) (State.countReport_keepsLine k false o s).cs (h a)
  generalize s.countReport k false o = u at h' ⊢
  dsimp only
  split
  · exact (u.answerAbort_keepsSound _ _ _).trans (State.attemptOk_keepsSound i k o
      fun a => .of_eq (State.answerAbort_tt _ _ _ u) (State.answerAbort_cs _ _ _ u) (h' a))
  · have judged : u.KeepsSound A ((u.resyncAtStation i k o).updSlot i (Slot.noteDoubt o)) :=
      (u.resyncAtStation_keepsSound i k o).trans (State.updSlot_keepsSound rfl fun _ => .inl rfl)
    have ended (a : A) : ((u.resyncAtStation i k o).updSlot i (Slot.noteDoubt o)).AttemptEnded i := by
      have := State.AttemptEnded.of_eq (State.resyncAtStation_tt i k o u)
        (State.resyncAtStation_keepsLine i k o u).cs (h' a)
      exact ⟨by rw [State.updSlot_slot]; exact this.1, this.2⟩
    refine judged.trans ?_
    generalize (u.resyncAtStation i k o).updSlot i (Slot.noteDoubt o) = v at ended ⊢
    split
    · exact (v.answerAbort_keepsSound _ _ _).trans (State.endAttempt_keepsSound _ _ _
        fun a => .of_eq (State.answerAbort_tt _ _ _ v) (State.answerAbort_cs _ _ _ v) (ended a))
    · exact State.attemptGoesOn_keepsSound i o _ ended

theorem State.deliver_keepsSound (x : InHand) (o : LineOutcome) {s : State}
    (h : A → ∀ i k, x = .attempt i k → s.AttemptEnded i) : s.KeepsSound A (s.deliver x o) := by
  cases x with
  | poll k => exact s.pollReport_keepsSound k o
  | probe k => exact s.probeReport_keepsSound k o
  | attempt i k => exact State.attemptReport_keepsSound i k o fun a => h a i k rfl
  | sync => exact .refl s

end Sys2Proof.Machine
end

section
/-! What every step keeps: the Cycle Scheduler's decisions, the end of an exchange, and the commands on the line and
of the timers. -/

namespace Sys2Proof.Machine

variable {A : Prop}

/-! ### The scheduler -/

/-- An exchange that is no attempt is taken into hand. -/
theorem State.handOver_keepsSound {x : InHand} (hx : ∀ i k, x ≠ .attempt i k) (q : SendRequest) (s : State) :
    s.KeepsSound A (s.handOver x q) :=
  .of_rest rfl rfl rfl (fun i k h => absurd (Option.some.inj h) (hx i k)) rfl rfl id

/-- R104: an unfinished slot's attempt is taken into hand. -/
theorem State.takeAttempt_keepsSound {s : State} {i : SlotId} (hi : (s.slot i).state.unfinished = true) :
    s.KeepsSound A (s.takeAttempt i) := by
  unfold State.takeAttempt
  split
  · exact .refl s
  · rename_i k hk
    refine .of_blocks (.refl _) (fun _ => .refl _) (fun _ h => ?_) (.refl _ _) rfl id
    have slot (j : SlotId) : (s.updSlot i (Slot.takenIntoHand (s.nextForm i))).slot j
        = if j = i then (s.slot i).takenIntoHand (s.nextForm i) else s.slot j := by
      split
      · subst j; exact State.updSlot_slot _ _ s
      · exact State.updSlot_slot_ne i j _ s ‹_›
    refine State.SlotsSound.of_states (s := s) rfl rfl rfl (fun j => ?_) (fun j => ?_) (fun j l hj => ?_) h
    · refine (congrArg Slot.station (slot j)).trans ?_
      split
      · subst j; rfl
      · rfl
    · refine Or.imp (congrArg Slot.state (slot j)).trans
        (And.imp_right (congrArg (fun x => x.state.unfinished) (slot j)).trans) ?_
      split
      · subst j; exact .inr ⟨hi, rfl⟩
      · exact .inl rfl
    · obtain ⟨rfl, rfl⟩ := InHand.attempt.inj (Option.some.inj hj)
      exact ⟨congrArg Slot.state ((slot i).trans (if_pos rfl)),
        (congrArg Slot.station ((slot i).trans (if_pos rfl))).trans hk⟩

theorem State.unfinished_of_eligible {s : State} {i : SlotId} (h : s.eligible i = true) :
    (s.slot i).state.unfinished = true := by
  unfold State.eligible at h
  split at h
  · cases h
  · have queued : (s.slot i).state = .queued := by
      simp only [Bool.and_eq_true, decide_eq_true_eq] at h
      exact h.1.1.1.1
    rw [queued]; rfl

theorem State.oldestEligible_unfinished {s : State} {i : SlotId} (h : s.oldestEligible = some i) :
    (s.slot i).state.unfinished = true := State.unfinished_of_eligible (List.find?_some h)

theorem State.forcedSlot_unfinished {s : State} {i : SlotId} (h : s.forcedSlot = some i) :
    (s.slot i).state.unfinished = true :=
  State.unfinished_of_eligible ((Bool.and_eq_true _ _).mp
    (List.find?_some (p := fun i => s.eligible i && decide ((s.slot i).fitPass = 4)) h)).1

/-- The CS sets fields of its own. -/
theorem State.KeepsSound.of_cs {c : Scheduler} (s : State) (inHand : c.inHand = s.cs.inHand) :
    s.KeepsSound A { s with cs := c } :=
  .of_rest rfl rfl rfl (fun _ _ h => inHand ▸ h) rfl rfl id

/-- The LC sets fields of its own. -/
theorem State.KeepsSound.of_lc (l : LineController) (s : State) : s.KeepsSound A { s with lc := l } :=
  .of_rest rfl rfl rfl (fun _ _ => id) rfl rfl id

theorem State.endActivity_keepsSound (s : State) : s.KeepsSound A s.endActivity := .of_cs _ rfl

theorem State.considerFixed_keepsSound (s : State) : s.KeepsSound A s.considerFixed := by
  unfold State.considerFixed
  split
  · exact .of_cs _ rfl
  · rename_i i hi
    split
    · exact State.takeAttempt_keepsSound (State.oldestEligible_unfinished hi)
    · exact .trans (State.updSlot_keepsSound rfl fun _ => .inl rfl) (State.endActivity_keepsSound _)

theorem State.considerFreeRun_keepsSound (s : State) : s.KeepsSound A s.considerFreeRun := by
  unfold State.considerFreeRun
  split
  · split
    · exact s.endActivity_keepsSound
    · exact State.takeAttempt_keepsSound (State.oldestEligible_unfinished ‹_›)
  · exact s.endActivity_keepsSound

theorem State.consider_keepsSound (s : State) : s.KeepsSound A s.consider := by
  unfold State.consider
  split
  · exact s.endActivity_keepsSound
  · split
    · exact s.considerFixed_keepsSound
    · exact s.considerFreeRun_keepsSound

theorem State.enterWindow_keepsSound (s : State) : s.KeepsSound A s.enterWindow := by
  unfold State.enterWindow
  refine .trans (t := { s with cs := { s.cs with phase := .window } }) (.of_cs _ rfl) ?_
  dsimp only
  split
  · exact State.consider_keepsSound _
  · split
    · exact State.takeAttempt_keepsSound (State.forcedSlot_unfinished ‹_›)
    · exact State.consider_keepsSound _

theorem State.enterProbe_keepsSound (s : State) : s.KeepsSound A s.enterProbe := by
  unfold State.enterProbe
  split
  · exact s.enterWindow_keepsSound
  · split
    · exact s.enterWindow_keepsSound
    · exact .trans (State.handOver_keepsSound (x := .probe _) (fun _ _ h => by cases h) _ s) (.of_cs _ rfl)

theorem State.enterSync_keepsSound (s : State) : s.KeepsSound A s.enterSync := by
  unfold State.enterSync
  split
  · exact .trans (State.handOver_keepsSound (x := .sync) (fun _ _ h => by cases h) _ s) (.of_cs _ rfl)
  · exact s.enterProbe_keepsSound

theorem State.sendPoll_keepsSound (k : StationId) (s : State) : s.KeepsSound A (s.sendPoll k) := by
  have carried : s.KeepsSound A (s.updStation k (Station.markCarried s.hm.safe)) :=
    State.updStation_keepsSound fun e => by
      unfold Station.markCarried
      split <;> exact ⟨rfl, rfl, rfl, rfl, rfl, rfl⟩
  unfold State.sendPoll
  exact carried.trans (.trans (State.handOver_keepsSound (x := .poll k) (fun _ _ h => by cases h) _ _)
    (.of_cs _ rfl))

theorem State.pollRest_keepsSound (l : List StationId) : ∀ s : State, s.KeepsSound A (State.pollRest l s) := by
  induction l with
  | nil =>
    exact fun s => .trans (t := { s with cs := { s.cs with pollList := [] } }) (.of_cs _ rfl)
      (State.enterSync_keepsSound _)
  | cons k rest ih =>
    intro s
    unfold State.pollRest
    split
    · exact .trans (t := { s with cs := { s.cs with pollList := rest } }) (.of_cs _ rfl)
        (State.sendPoll_keepsSound k _)
    · exact ih s

theorem State.continueCycle_keepsSound (s : State) : s.KeepsSound A s.continueCycle := by
  unfold State.continueCycle
  split
  · split
    · exact State.pollRest_keepsSound _ s
    · exact s.enterProbe_keepsSound
    · exact s.enterWindow_keepsSound
    · exact s.consider_keepsSound
    · exact .refl s
    · exact .refl s
  · exact .refl s

theorem State.reportEligible_keepsSound (s : State) : s.KeepsSound A s.reportEligible := by
  unfold State.reportEligible
  split
  · exact s.consider_keepsSound
  · exact .refl s

theorem State.closeCycle_keepsSound (s : State) : s.KeepsSound A s.closeCycle := by
  unfold State.closeCycle
  refine .trans (t := { s with cs := s.cs.recordBusy }) (.of_cs _ rfl) ?_
  dsimp only
  split
  · exact .refl _
  · exact (State.KeepsSound.of_cs _ (by rfl)).trans (State.endCause_keepsSound _ _ _)

theorem State.lineCycleNotice_keepsSound (s : State) : s.KeepsSound A s.lineCycleNotice := by
  unfold State.lineCycleNotice
  refine .trans ?_ (.of_lc _ _)
  split
  · exact s.endCause_keepsSound _ _
  · exact .refl s

theorem State.beginCycle_keepsSound (s : State) : s.KeepsSound A s.beginCycle := by
  unfold State.beginCycle
  refine .trans (t := { s with cs := s.cs.begin s.now }) (.of_cs _ rfl) ?_
  exact (State.lineCycleNotice_keepsSound _).trans (State.pollRest_keepsSound _ _)

theorem State.nextCycle_keepsSound (s : State) : s.KeepsSound A s.nextCycle := by
  unfold State.nextCycle
  refine s.closeCycle_keepsSound.trans ?_
  generalize s.closeCycle = u
  exact .trans (t := { u with cs := { u.cs with cycle := u.cs.cycle + 1 } }) (.of_cs _ rfl)
    (State.beginCycle_keepsSound _)

theorem State.firstCycle_keepsSound (s : State) : s.KeepsSound A s.firstCycle := by
  unfold State.firstCycle
  exact .trans (t := { s with cs := { s.cs with cycle := 0, probePointer := 0, runLength := 0 } })
    (.of_cs _ rfl) (State.beginCycle_keepsSound _)

theorem State.overruns_keepsSound (s : State) : s.KeepsSound A s.overruns := by
  unfold State.overruns
  refine .trans (t := { s with cs := { s.cs with
    overrun := true, overrunCount := s.cs.overrunCount + 1, runLength := satInc s.cs.runLength
    cycleTimer := none } }) (.of_cs _ rfl) ?_
  dsimp only
  split
  · exact State.raise_keepsSound _ _ _ _
  · exact .refl _

theorem State.onDue_keepsSound (s : State) : s.KeepsSound A s.onDue := by
  unfold State.onDue
  split
  · split
    · exact s.nextCycle_keepsSound
    · exact s.overruns_keepsSound
  · exact .refl s

theorem State.onFreeRunMinimum_keepsSound (s : State) : s.KeepsSound A s.onFreeRunMinimum := by
  unfold State.onFreeRunMinimum
  split
  · refine .trans (t := { s with cs := { s.cs with cycleTimer := none } }) (.of_cs _ rfl) ?_
    dsimp only
    split
    · exact State.nextCycle_keepsSound _
    · exact .refl _
  · exact .refl s

theorem State.onEmptyGap_keepsSound (s : State) : s.KeepsSound A s.onEmptyGap := by
  unfold State.onEmptyGap
  split
  · refine .trans (t := { s with cs := { s.cs with emptyGapTimer := none } }) (.of_cs _ rfl) ?_
    dsimp only
    split
    · exact State.nextCycle_keepsSound _
    · exact .refl _
  · exact .refl s

theorem State.onGapEnd_keepsSound (s : State) : s.KeepsSound A s.onGapEnd := by
  unfold State.onGapEnd
  split
  · split
    · exact .of_lc _ s
    · refine .trans (.of_lc { s.lc with state := .idle, gapTimer := none } s) ?_
      dsimp only
      split
      · exact State.nextCycle_keepsSound _
      · exact .refl _
  · exact .refl s

/-! ### The end of an exchange -/

/-- What is known of the attempt in hand holds in every state whose transaction table is sound. -/
theorem State.KeepsSound.discharge {B : Prop} {s t : State} (h : s.KeepsSound B t) (known : s.SlotsSound → B) :
    s.KeepsSound A t := { h with slots := fun _ hs => h.slots (known hs) hs }

theorem State.endExchange_keepsSound (o : LineOutcome) (s : State) : s.KeepsSound A (s.endExchange o) := by
  unfold State.endExchange
  split
  · exact .of_lc _ s
  · rename_i x hx
    have letGo (B : Prop) : s.KeepsSound B { s with cs := s.cs.letGo s.now } :=
      .of_rest rfl rfl rfl (fun _ _ h => nomatch h) rfl rfl id
    have delivered : s.KeepsSound A (({ s with cs := s.cs.letGo s.now } : State).deliver x o) :=
      ((letGo _).trans (State.deliver_keepsSound x o
        (A := ∀ i k, x = .attempt i k → (s.slot i).state = .onLink)
        fun known i k hi => ⟨known i k hi, rfl⟩)).discharge
          fun h i k hi => (h.2.2.2.2.2.2 i k (hi ▸ hx)).1
    refine delivered.trans ?_
    generalize ({ s with cs := s.cs.letGo s.now } : State).deliver x o = u
    have counted : u.KeepsSound A (if o = .failed .misaddressed then u.countUnexpected else u) := by
      split
      · exact u.countUnexpected_keepsSound
      · exact .refl u
    exact counted.trans ((State.KeepsSound.of_lc _ _).trans
      ((State.reportLine_keepsSound _).trans (State.continueCycle_keepsSound _)))

theorem State.onFrameSent_keepsSound (s : State) : s.KeepsSound A s.onFrameSent := by
  unfold State.onFrameSent
  split
  · split
    · split
      · refine .trans (t := { s with lc := s.lc.enterGap, cs := s.cs.letGo s.now })
          (.of_rest rfl rfl rfl (fun _ _ h => nomatch h) rfl rfl id) ?_
        exact (State.reportLine_keepsSound _).trans (State.continueCycle_keepsSound _)
      · exact .of_lc _ s
    · exact .refl s
  · exact .refl s

theorem State.awaitCharacter_keepsSound (c : Character) (s : State) : s.KeepsSound A (s.awaitCharacter c) := by
  unfold State.awaitCharacter
  split
  · exact .of_lc _ s
  · exact .refl s

theorem State.receiveCharacter_keepsSound (c : Character) (s : State) :
    s.KeepsSound A (s.receiveCharacter c) := by
  unfold State.receiveCharacter
  refine .trans (.of_lc (s.lc.receive c) s) ?_
  dsimp only
  split
  · exact State.endExchange_keepsSound _ _
  · exact .refl _

theorem State.unexpected_keepsSound (s : State) : s.KeepsSound A s.unexpected := by
  unfold State.unexpected
  refine .trans ?_ (.of_lc _ _)
  split
  · exact .refl s
  · exact (State.KeepsSound.of_lc _ s).trans (State.countUnexpected_keepsSound _)

theorem State.onCharacter_keepsSound (c : Character) (s : State) : s.KeepsSound A (s.onCharacter c) := by
  unfold State.onCharacter
  split
  case h_1 | h_2 => exact .refl s
  case h_3 => exact s.awaitCharacter_keepsSound c
  case h_4 => exact s.receiveCharacter_keepsSound c
  case h_5 | h_6 => exact s.unexpected_keepsSound

theorem State.onResponseTimeout_keepsSound (s : State) : s.KeepsSound A s.onResponseTimeout := by
  unfold State.onResponseTimeout
  split
  · exact s.endExchange_keepsSound _
  · exact .refl s

theorem State.onInterByteTimeout_keepsSound (s : State) : s.KeepsSound A s.onInterByteTimeout := by
  unfold State.onInterByteTimeout
  split
  · exact s.endExchange_keepsSound _
  · exact .refl s

theorem State.onOutcomeEvent_keepsSound (e : OutcomeEvent) (s : State) : s.KeepsSound A (s.onOutcomeEvent e) := by
  cases e with
  | character c => exact s.onCharacter_keepsSound c
  | responseTimeout => exact s.onResponseTimeout_keepsSound
  | interByteTimeout => exact s.onInterByteTimeout_keepsSound

theorem State.onTrigger_keepsSound (t : StartTrigger) (s : State) : s.KeepsSound A (s.onTrigger t) := by
  cases t with
  | cycleDue => exact s.onDue_keepsSound
  | freeRunMinimum => exact s.onFreeRunMinimum_keepsSound
  | gapEnd => exact s.onGapEnd_keepsSound
  | emptyCycleGap => exact s.onEmptyGap_keepsSound

/-! ### Backoff, restart and hold timers -/

theorem State.onBackoffExpiry_keepsSound (i : SlotId) (s : State) : s.KeepsSound A (s.onBackoffExpiry i) := by
  unfold State.onBackoffExpiry
  split
  · rename_i h
    obtain ⟨-, backoff, -⟩ := h
    refine .trans (State.updSlot_keepsSound rfl fun _ => .inr ⟨fun hs => ?_, ?_, rfl⟩)
      (State.reportEligible_keepsSound _)
    · exact hs.not_inHand_of_waiting (.inr backoff)
    · rw [backoff]; rfl
  · exact .refl s

theorem State.onRestartExpiry_keepsSound (k : StationId) (s : State) : s.KeepsSound A (s.onRestartExpiry k) := by
  unfold State.onRestartExpiry
  split
  · rename_i h
    refine State.moveStation_cleared_keepsSound (fun _ => ⟨rfl, rfl, rfl, rfl, rfl⟩) (by decide) fun sound valid => ?_
    have := sound.2.2.2.2 ((Station.moveTo_rest _ _ _).2.2.1 ▸ valid)
    rw [h.2.1] at this
    rcases this with e | e <;> cases e
  · exact .refl s

theorem State.clearSafe_keepsSound (s : State) : s.KeepsSound A s.clearSafe := by
  unfold State.clearSafe
  exact .trans (t := { s with hm := { s.hm with safe := false } })
    (.of_rest rfl rfl rfl (fun _ _ => id) rfl rfl id) (State.endCause_keepsSound _ _ _)

theorem State.rebuildHeld_keepsSound (s : State) : s.KeepsSound A s.rebuildHeld := by
  unfold State.rebuildHeld
  split
  · exact .refl s
  · split
    · exact .of_lc _ s
    · exact .refl s

theorem State.enterSafe_keepsSound (s : State) : s.KeepsSound A s.enterSafe := by
  unfold State.enterSafe
  refine .trans (t := { s with hm := s.hm.enterSafe })
    (.of_owners (.refl _) (fun _ => .refl _) rfl (fun _ _ => id) (.more _ _) rfl id) ?_
  refine (State.rebuildHeld_keepsSound _).trans ?_
  dsimp only
  generalize ({ s with hm := s.hm.enterSafe } : State).rebuildHeld = u
  have ended : u.KeepsSound A (allStations.foldl (State.endConfirmWith (.station .outputsHeld)) u) :=
    .foldl (fun v k => v.endConfirm_keepsSound k _) allStations u
  exact ended.trans (State.raise_keepsSound _ _ _ _)

theorem State.onHoldExpiry_keepsSound (s : State) : s.KeepsSound A s.onHoldExpiry := by
  unfold State.onHoldExpiry
  split
  · exact s.enterSafe_keepsSound
  · exact .refl s

end Sys2Proof.Machine
end

section
/-! What every step keeps: resets, the host bus, and the submission rings with what holds them. -/

namespace Sys2Proof.Machine

variable {A : Prop}

/-! ### Resets -/

/-- R161, R162: the reset values are sound, whatever the cause of the reset. -/
theorem State.resetBy_sound (cause : ResetCause) :
    (State.resetBy cause).fl.Sound ∧ (State.resetBy cause).StationsSound ∧ (State.resetBy cause).SlotsSound
    ∧ (State.resetBy cause).StagingSound ∧ (State.resetBy cause).RingsSound := by
  have station (k : StationId) : (State.resetBy cause).station k = Station.reset := by
    simp [State.resetBy, State.station]
  have slot (i : SlotId) : (State.resetBy cause).slot i = Slot.reset := by
    simp [State.resetBy, State.slot, TransactionTable.reset]
  have fifo (k : StationId) : (State.resetBy cause).fifo k = [] := by
    simp [State.resetBy, State.fifo, TransactionTable.reset]
  refine ⟨⟨Nat.zero_le _, .nil, fun _ he => nomatch he⟩, fun k => ?_, ?_, ?_, ?_⟩
  · rw [station]
    exact .of_no_misses le_rfl rfl (fun h => nomatch h) (fun h => nomatch h)
  · refine ⟨.nil, fun i => ?_, .nil, fun i => ?_, fun i hi => ?_, fun k => fifo k, fun _ _ h => nomatch h⟩
    · rw [slot]; exact iff_of_false List.not_mem_nil (absurd rfl)
    · rw [slot]; exact iff_of_false List.not_mem_nil nofun
    · rw [slot] at hi; exact absurd rfl hi
  · have idle : oneUnposted false false 0 := ⟨by simp, by simp⟩
    refine ⟨Nat.zero_le _, idle, idle, fun k => ?_, fun k => ?_⟩ <;> rw [station] <;> exact idle
  · exact ⟨Nat.zero_le _, fun ⟨_, request⟩ => Bool.noConfusion request,
      fun ⟨fetch, _⟩ => Bool.noConfusion fetch⟩

theorem State.resetNow_keepsSound (cause : ResetCause) (s : State) : s.KeepsSound A (s.resetNow cause) := by
  obtain ⟨fl, st, tt, staging, rings⟩ := State.resetBy_sound cause
  exact ⟨fun _ => fl, fun _ => st, fun _ _ => tt, fun _ => staging, fun _ => rings⟩

/-! ### The host bus -/

/-- The host queues change, with the staged records and what holds the rings and the port as they were. -/
theorem State.KeepsSound.of_hqi {h : HostQueue} (s : State) (queue : h.inFlight = s.hqi.inFlight) :
    s.KeepsSound A { s with hqi := h } :=
  .of_rest rfl rfl rfl (fun _ _ => id) rfl queue id

/-- The holds of the rings and the port change, and nothing else that soundness asks for. -/
theorem State.KeepsSound.of_holds {h : HostQueue} {c : SessionController} (s : State)
    (staging : h.staging = s.hqi.staging)
    (rings : s.RingsSound → State.RingsSound { s with hqi := h, sc := c }) :
    s.KeepsSound A { s with hqi := h, sc := c } :=
  .of_blocks (.refl _) (fun _ => .refl _) (fun _ => .of_tt rfl fun _ _ => id) (.refl _ _) staging rings

theorem State.bus_keepsSound (b : BusResponse) (s : State) : s.KeepsSound A { s with bus := b } :=
  .of_rest rfl rfl rfl (fun _ _ => id) rfl rfl id

theorem State.writeControl_keepsSound (value : Word) (s : State) : s.KeepsSound A (s.writeControl value) := by
  unfold State.writeControl
  split
  · exact .of_rest rfl rfl rfl (fun _ _ => id) rfl rfl id
  · exact s.resetNow_keepsSound _
  all_goals exact .of_hqi s rfl

/-- R170: a withdrawal lets go of the held copy and leaves the read in flight where it is. -/
theorem HostQueue.withdraw_keeps (ring : SubmissionRing) (h : HostQueue) :
    (h.withdraw ring).staging = h.staging ∧ (h.withdraw ring).post = h.post
    ∧ (h.withdraw ring).fetch.map Fetch.ring = h.fetch.map Fetch.ring
    ∧ (h.withdraw ring).taken = h.taken ∧ (h.withdraw ring).nonSlot = h.nonSlot
    ∧ ((h.withdraw ring).heldCopy = h.heldCopy ∨ (h.withdraw ring).heldCopy = none) := by
  unfold HostQueue.withdraw
  split
  · refine ⟨rfl, rfl, ?_, rfl, rfl, ?_⟩
    · cases h.fetch with
      | none => rfl
      | some f => simp only [Option.map_some]; split <;> rfl
    · dsimp only; split <;> simp
  · exact ⟨rfl, rfl, rfl, rfl, rfl, .inl rfl⟩

theorem HostQueue.fetching_congr {h h' : HostQueue} (e : h'.fetch.map Fetch.ring = h.fetch.map Fetch.ring)
    (ring : SubmissionRing) : h'.fetching ring = h.fetching ring := by
  have any (x : Option Fetch) : x.any (fun f => f.ring = ring) = (x.map Fetch.ring).any (· = ring) := by
    cases x <;> rfl
  unfold HostQueue.fetching
  rw [any, any, e]

theorem State.withdrawn_keepsSound {h : HostQueue} (s : State) (ring : SubmissionRing)
    (queue : h.inFlight = s.hqi.inFlight) : s.KeepsSound A { s with hqi := h.withdraw ring } := by
  obtain ⟨staging, fetch, held, taken, nonSlot, post⟩ := HostQueue.inFlight_inj queue
  obtain ⟨staging', post', fetch', taken', nonSlot', held'⟩ := h.withdraw_keeps ring
  rw [fetch] at fetch'
  have fetching (r : SubmissionRing) := HostQueue.fetching_congr fetch' r
  refine .of_holds s (staging'.trans staging) (.of_le ?_ (fun e => (fetching .control) ▸ e) id ?_ ?_)
  · have : (h.withdraw ring).heldCopy.isSome.toNat ≤ s.hqi.heldCopy.isSome.toNat := by
      rcases held' with e | e
      · rw [e, held]
      · rw [e]; exact Nat.zero_le _
    simp only [HostQueue.transferHolds, fetching, taken', taken, nonSlot', nonSlot]
    omega
  · dsimp only
    rw [← Option.isSome_map (f := Fetch.ring), fetch', Option.isSome_map]
    exact id
  · dsimp only
    rw [post', post]
    exact id

theorem HostQueue.moveCompletionHead_inFlight (value : Nat) (h : HostQueue) :
    (h.moveCompletionHead value).inFlight = h.inFlight := by
  unfold HostQueue.moveCompletionHead
  dsimp only
  split <;> rfl

theorem State.registerEffect_keepsSound (r : Register) (value : Word) (s : State) :
    s.KeepsSound A (s.registerEffect r value) := by
  have judged (f : RingAttachment → HostQueue → HostQueue)
      (h : ∀ a, s.KeepsSound A { s with hqi := f a s.hqi }) : s.KeepsSound A (s.judgedWrite f) := by
    unfold State.judgedWrite
    split
    · split
      · exact .refl s
      · exact h _
    · exact .refl s
  cases r with
  | control => exact s.writeControl_keepsSound value
  | ringBase => exact .of_hqi s rfl
  | controlTail =>
    refine judged _ fun a => ?_
    unfold HostQueue.writeControlTail
    split
    · exact State.withdrawn_keepsSound s .control (by rfl)
    · exact .of_hqi s rfl
  | transferTail =>
    refine judged _ fun a => ?_
    unfold HostQueue.writeTransferTail
    split
    · exact State.withdrawn_keepsSound s .transfer (by rfl)
    · exact .of_hqi s rfl
  | completionHead =>
    refine judged _ fun a => ?_
    unfold HostQueue.writeCompletionHead
    split
    · exact .of_hqi s (HostQueue.moveCompletionHead_inFlight _ _)
    · exact .of_hqi s rfl
  | id | status | controlHead | transferHead | completionTail => exact .refl s

theorem State.writeRegister_keepsSound (r : Register) (value : Word) (s : State) :
    s.KeepsSound A (s.writeRegister r value) :=
  (s.registerEffect_keepsSound r value).trans (State.bus_keepsSound _ _)

theorem State.slaveAccess_keepsSound (a : SlaveAccess) (s : State) : s.KeepsSound A (s.slaveAccess a) := by
  unfold State.slaveAccess
  split
  · split
    · exact (s.resetNow_keepsSound .power).trans (State.bus_keepsSound _ _)
    · unfold State.accessInService
      split
      · split
        · exact s.writeRegister_keepsSound _ _
        · exact s.bus_keepsSound _
      · exact s.bus_keepsSound _
  · exact .refl s

/-! ### Fetching and taking (R171 to R176) -/

theorem State.onDescriptorEnd_keepsSound (r : DescriptorEnd) (s : State) :
    s.KeepsSound A (s.onDescriptorEnd r) := by
  have bad : s.KeepsSound A s.badDescriptor := .of_rest rfl rfl rfl (fun _ _ => id) rfl rfl id
  unfold State.onDescriptorEnd
  split
  · split
    · exact bad
    · split
      · exact bad
      · exact .of_rest rfl rfl rfl (fun _ _ => id) rfl rfl id
  · exact .refl s

theorem State.onFetchStart_keepsSound (s : State) : s.KeepsSound A s.onFetchStart := by
  unfold State.onFetchStart
  split
  · rename_i h
    obtain ⟨-, noFetch, noPost, -⟩ := h
    have noRead (ring : SubmissionRing) : s.hqi.fetching ring = false := by
      simp [HostQueue.fetching, noFetch]
    split
    · rename_i candidate
      have noRequest : s.sc.request = none := by
        simpa [State.controlCandidate] using ((Bool.and_eq_true _ _).mp candidate).2
      refine .of_holds s rfl fun ⟨one, _, _⟩ => ⟨?_, ?_, ?_⟩
      · rw [noRead] at one
        simpa [HostQueue.fetching] using one
      · simp [noRequest]
      · simp [noPost]
    · split
      · rename_i candidate
        simp only [State.transferCandidate, Bool.and_eq_true, decide_eq_true_eq] at candidate
        obtain ⟨⟨⟨-, noHeld⟩, noNonSlot⟩, noTaken⟩ := candidate
        refine .of_holds s rfl fun _ => ⟨?_, ?_, ?_⟩
        · simp [HostQueue.fetching, noHeld, noNonSlot, noTaken]
        · simp [HostQueue.fetching]
        · simp [noPost]
      · exact .refl s
  · exact .refl s

theorem State.onFetchEnd_keepsSound (r : Record) (s : State) : s.KeepsSound A (s.onFetchEnd r) := by
  unfold State.onFetchEnd
  split
  · exact .refl s
  · rename_i f hf
    have ended : s.KeepsSound A { s with hqi := { s.hqi with fetch := none } } := by
      refine .of_holds s rfl (.of_le ?_ (by simp [HostQueue.fetching]) id (by simp) id)
      simp only [HostQueue.transferHolds, HostQueue.fetching, Option.any_none, Bool.toNat_false]
      omega
    dsimp only
    split
    · exact ended
    · split
      · unfold State.takeControl
        split
        · exact ended
        · refine .of_holds s rfl fun ⟨one, _, _⟩ => ⟨?_, by simp [HostQueue.fetching], by simp⟩
          refine le_trans ?_ one
          simp only [HostQueue.fetching, Option.any_none, Bool.toNat_false]
          omega
      · rename_i ring
        have reading : s.hqi.fetching .transfer = true := by simp [HostQueue.fetching, hf, ring]
        split
        · refine .of_holds s rfl fun ⟨one, _, _⟩ => ⟨?_, by simp [HostQueue.fetching], by simp⟩
          rw [reading] at one
          simp only [HostQueue.fetching, Option.any_none, Bool.toNat_false, Bool.toNat_true,
          Option.isSome_some] at one ⊢
          omega
        · unfold State.takeTransfer
          split
          · exact ended
          · refine .of_holds s rfl fun ⟨one, _, _⟩ => ⟨?_, by simp [HostQueue.fetching], by simp⟩
            rw [reading] at one
            simp only [HostQueue.fetching, Option.any_none, Option.isSome_none, Bool.toNat_false, Bool.toNat_true,
              Option.isSome_some] at one ⊢
            omega

theorem State.onHeldCopyTaken_keepsSound (s : State) : s.KeepsSound A s.onHeldCopyTaken := by
  unfold State.onHeldCopyTaken
  split
  · exact .refl s
  · rename_i r held
    split
    · exact .refl s
    · unfold State.takeTransfer
      split
      · exact .refl s
      · refine .of_holds s rfl fun ⟨one, noRead, port⟩ => ⟨?_, noRead, port⟩
        simp only [HostQueue.fetching, held, Option.isSome_none, Bool.toNat_false, Bool.toNat_true,
          Option.isSome_some] at one ⊢
        omega

theorem State.refuseControl_keepsSound (s : State) : s.KeepsSound A s.refuseControl := by
  unfold State.refuseControl
  split
  · exact .refl s
  · split
    · exact s.answer_keepsSound _
    · exact .refl s

/-- R177: the completion of a taken record takes its place in the transfer ring's holds. -/
theorem State.completeTransfer_keepsSound {s : State} (taken : s.hqi.taken.isSome = true) (t : TakenRecord)
    (status : Status) (data : List Byte) : s.KeepsSound A (s.completeTransfer t status data) := by
  refine .of_holds s rfl fun ⟨one, noRead, port⟩ => ⟨?_, noRead, port⟩
  simp only [HostQueue.fetching, taken, Option.isSome_none, Bool.toNat_false, Bool.toNat_true,
          Option.isSome_some] at one ⊢
  omega

theorem State.dropTaken_keepsSound (s : State) : s.KeepsSound A s.dropTaken := by
  refine .of_holds s rfl fun ⟨one, noRead, port⟩ => ⟨?_, noRead, port⟩
  simp only [HostQueue.fetching, Option.isSome_none, Bool.toNat_false] at one ⊢
  omega

theorem State.refuseTransfer_keepsSound (s : State) : s.KeepsSound A s.refuseTransfer := by
  unfold State.refuseTransfer
  split
  · exact .refl s
  · rename_i t taken
    split
    · exact State.completeTransfer_keepsSound (by rw [taken]; rfl) _ _ _
    · exact .refl s

end Sys2Proof.Machine
end

section
/-! What every step keeps: the staging buffer and its events (R178, R180). -/

namespace Sys2Proof.Machine

variable {A : Prop}

/-! ### Grants and posts (R178, R180) -/

/-- The pending flag and the in-staging mark of the source that `o` names; a request has none. -/
def State.mark (s : State) : Owner → Bool × Bool
  | .request => (false, false)
  | .fault => (s.fl.pending, s.fl.inStaging)
  | .safe => (s.hm.event.pending, s.hm.event.inStaging)
  | .stationState k => ((s.station k).report.pending, (s.station k).report.inStaging)
  | .change k => ((s.station k).change.pending, (s.station k).change.inStaging)

/-- R178: one event unposted of each source, whichever it is. -/
theorem State.stagingSound_iff (s : State) : s.StagingSound ↔ s.hqi.staging.length ≤ 8
    ∧ ∀ o, o ≠ .request → oneUnposted (s.mark o).1 (s.mark o).2 (s.hqi.stagedFor o) := by
  constructor
  · intro ⟨size, fault, safe, report, change⟩
    refine ⟨size, fun o ho => ?_⟩
    cases o with
    | request => exact absurd rfl ho
    | fault => exact fault
    | safe => exact safe
    | stationState k => exact report k
    | change k => exact change k
  · intro ⟨size, one⟩
    exact ⟨size, one .fault nofun, one .safe nofun, fun k => one (.stationState k) nofun,
      fun k => one (.change k) nofun⟩

/-- R178: a record enters a buffer with a free place; its source, if it is an event, was pending, and is now marked. -/
theorem State.StagingSound.of_granted {s t : State} {r : StagedRecord} (place : s.hqi.staging.length < 8)
    (staging : t.hqi.staging = s.hqi.staging ++ [r]) (others : ∀ o, o ≠ r.owner → t.mark o = s.mark o)
    (owner : r.owner ≠ .request → (s.mark r.owner).1 = true ∧ t.mark r.owner = (false, true)) :
    s.StagingSound → t.StagingSound := by
  rw [State.stagingSound_iff, State.stagingSound_iff]
  intro ⟨_, one⟩
  refine ⟨by rw [staging]; simp; omega, fun o ho => ?_⟩
  by_cases h : o = r.owner
  · subst h
    obtain ⟨pending, marked⟩ := owner ho
    have staged : t.hqi.stagedFor r.owner = s.hqi.stagedFor r.owner + 1 := by
      simp [HostQueue.stagedFor, staging]
    rw [marked, staged]
    exact (pending ▸ one r.owner ho).granted
  · have staged : t.hqi.stagedFor o = s.hqi.stagedFor o := by
      simp [HostQueue.stagedFor, staging, Ne.symm h]
    rw [others o h, staged]
    exact one o ho

/-- R180: the oldest staged record leaves the buffer; its source, if it is an event, clears its mark. -/
theorem State.StagingSound.of_posted {s t : State} {r : StagedRecord} {rest : List StagedRecord}
    (before : s.hqi.staging = r :: rest) (staging : t.hqi.staging = rest)
    (others : ∀ o, o ≠ r.owner → t.mark o = s.mark o) (owner : (t.mark r.owner).2 = false) :
    s.StagingSound → t.StagingSound := by
  rw [State.stagingSound_iff, State.stagingSound_iff]
  intro ⟨size, one⟩
  refine ⟨by rw [before] at size; rw [staging]; simp at size; omega, fun o ho => ?_⟩
  by_cases h : o = r.owner
  · subst h
    have staged : s.hqi.stagedFor r.owner = t.hqi.stagedFor r.owner + 1 := by
      simp [HostQueue.stagedFor, before, staging]
    rw [owner]
    exact (staged ▸ one r.owner ho).posted
  · have staged : t.hqi.stagedFor o = s.hqi.stagedFor o := by
      simp [HostQueue.stagedFor, before, staging, Ne.symm h]
    rw [others o h, staged]
    exact one o ho

/-! The marks after the changes that a grant and a post make. -/

theorem State.stage_mark (s : State) (r : CompletionRecord) (owner o : Owner) :
    (s.stage r owner).mark o = s.mark o := by
  cases o <;> rfl

theorem State.updStation_mark_of_report {s : State} {k : StationId} {f : Station → Station}
    (hf : ∀ e, (f e).change = e.change) : ∀ o, o ≠ .stationState k → (s.updStation k f).mark o = s.mark o
  | .request, _ | .fault, _ | .safe, _ => rfl
  | .stationState j, ho => by
    have hj : j ≠ k := fun e => ho (e ▸ rfl)
    simp only [State.mark, State.updStation_station_ne k j f s hj]
  | .change j, _ => by
    by_cases hj : j = k
    · subst hj; simp only [State.mark, State.updStation_station, hf]
    · simp only [State.mark, State.updStation_station_ne k j f s hj]

theorem State.updStation_mark_of_change {s : State} {k : StationId} {f : Station → Station}
    (hf : ∀ e, (f e).report = e.report) : ∀ o, o ≠ .change k → (s.updStation k f).mark o = s.mark o
  | .request, _ | .fault, _ | .safe, _ => rfl
  | .change j, ho => by
    have hj : j ≠ k := fun e => ho (e ▸ rfl)
    simp only [State.mark, State.updStation_station_ne k j f s hj]
  | .stationState j, _ => by
    by_cases hj : j = k
    · subst hj; simp only [State.mark, State.updStation_station, hf]
    · simp only [State.mark, State.updStation_station_ne k j f s hj]

theorem State.StationsSound.updStation {s : State} {k : StationId} {f : Station → Station}
    (h : (s.station k).Sound → (f (s.station k)).Sound) : s.StationsSound → (s.updStation k f).StationsSound :=
  fun hs j => by
    by_cases hj : j = k
    · subst hj; rw [State.updStation_station]; exact h (hs j)
    · rw [State.updStation_station_ne k j f s hj]; exact hs j

/-! The grants, claim by claim. -/

/-- A record that is staged for a request leaves every event source as it is. -/
theorem State.stage_request_keepsSound {s : State} (place : s.hqi.staging.length < 8) (r : CompletionRecord) :
    s.KeepsSound A (s.stage r .request) where
  faults := id
  stations := id
  slots := fun _ => .of_tt rfl fun _ _ => id
  staging := .of_granted place rfl (fun o _ => s.stage_mark r .request o) (fun h => absurd rfl h)
  rings := id

theorem State.grantFault_keepsSound {s : State} (place : s.hqi.staging.length < 8)
    (pending : s.fl.pending = true) : s.KeepsSound A s.grantFault where
  faults := .congr rfl
  stations := id
  slots := fun _ => .of_tt rfl fun _ _ => id
  staging := .of_granted place rfl (fun
    | .fault, ho => absurd rfl ho
    | .request, _ | .safe, _ | .stationState _, _ | .change _, _ => rfl) fun _ => ⟨pending, rfl⟩
  rings := id

theorem State.grantSafe_keepsSound {s : State} (place : s.hqi.staging.length < 8)
    (pending : s.hm.event.pending = true) : s.KeepsSound A s.grantSafe where
  faults := id
  stations := id
  slots := fun _ => .of_tt rfl fun _ _ => id
  staging := .of_granted place rfl (fun
    | .safe, ho => absurd rfl ho
    | .request, _ | .fault, _ | .stationState _, _ | .change _, _ => rfl) fun _ => ⟨pending, rfl⟩
  rings := id

theorem State.grantStationState_keepsSound {s : State} {k : StationId} (place : s.hqi.staging.length < 8)
    (pending : (s.station k).report.pending = true) : s.KeepsSound A (s.grantStationState k) where
  faults := id
  stations := .updStation (s := s.stage _ _) (.congr rfl rfl rfl rfl)
  slots := fun _ => .of_tt rfl fun _ _ => id
  staging := .of_granted place rfl
    (fun o ho => (State.updStation_mark_of_report (f := Station.reportGranted) (fun _ => rfl) o ho).trans
      (State.stage_mark _ _ _ o))
    fun _ => ⟨pending, by simp only [State.grantStationState, State.mark, State.updStation_station]; rfl⟩
  rings := id

theorem State.grantChange_keepsSound {s : State} {k : StationId} (place : s.hqi.staging.length < 8)
    (pending : (s.station k).change.pending = true) : s.KeepsSound A (s.grantChange k) where
  faults := id
  stations := .updStation (s := s.stage _ _) (.congr rfl rfl rfl rfl)
  slots := fun _ => .of_tt rfl fun _ _ => id
  staging := .of_granted place rfl
    (fun o ho => (State.updStation_mark_of_change (f := Station.changeGranted) (fun _ => rfl) o ho).trans
      (State.stage_mark _ _ _ o))
    fun _ => ⟨pending, by simp only [State.grantChange, State.mark, State.updStation_station]; rfl⟩
  rings := id

theorem State.grantControl_keepsSound {s : State} (place : s.hqi.staging.length < 8) (c : Completion) :
    s.KeepsSound A (s.grantControl c) :=
  (State.stage_request_keepsSound place _).trans
    (.of_rest rfl rfl rfl (fun _ _ => id) rfl rfl fun h => Bool.noConfusion h)

theorem State.freeSlot_keepsSound {s : State} {i : SlotId}
    (h : A → s.SlotsSound → (s.slot i).state = .done) : s.KeepsSound A (s.freeSlot i) :=
  .of_slots rfl fun a hs => .of_free (h a hs) rfl rfl rfl
    (congrArg Slot.state (State.updSlot_slot i (fun x => { x with state := .free }) s))
    (fun j hj => State.updSlot_slot_ne i j (fun x => { x with state := .free }) s hj) rfl hs

theorem State.grantSlot_keepsSound {s : State} {i : SlotId} (place : s.hqi.staging.length < 8)
    (done : i ∈ s.tt.doneQueue) : s.KeepsSound A (s.grantSlot i) := by
  refine (State.stage_request_keepsSound place _).trans (State.freeSlot_keepsSound fun _ hs => ?_)
  exact (hs.2.2.2.1 i).mp done

theorem State.grantTransfer_keepsSound {s : State} (place : s.hqi.staging.length < 8) (r : ReadyEntry) :
    s.KeepsSound A (s.grantTransfer r) := by
  unfold State.grantTransfer
  dsimp only
  split
  · split
    · exact .of_hqi s rfl
    · refine (State.stage_request_keepsSound place _).trans (.of_holds _ rfl (.of_le ?_ id id id id))
      simp only [HostQueue.transferHolds, HostQueue.fetching, Option.isSome_none, Bool.toNat_false]
      omega
  · split
    · exact .of_hqi s rfl
    · rename_i c others _
      have left (k : StationId) (u : State) : u.KeepsSound A (u.updStation k fun e => { e with results := others }) :=
        State.updStation_keepsSound fun _ => ⟨rfl, rfl, rfl, rfl, rfl, rfl⟩
      exact (State.stage_request_keepsSound place _).trans ((left _ _).trans (.of_hqi _ rfl))

/-- R178: what makes a claim one that is offered. -/
def State.Offers (s : State) : Claim → Prop
  | .control _ | .transfer _ => True
  | .slot i => i ∈ s.tt.doneQueue
  | .safe => s.hm.event.pending = true
  | .fault => s.fl.pending = true
  | .stationState k => (s.station k).report.pending = true
  | .change k => (s.station k).change.pending = true

theorem State.offers_of_topClaim {s : State} {c : Claim} (h : s.topClaim = some c) : s.Offers c := by
  unfold State.topClaim at h
  split at h
  · obtain rfl := Option.some.inj h; trivial
  · split at h
    · rename_i i rest hi
      obtain rfl := Option.some.inj h
      show i ∈ s.tt.doneQueue
      exact hi ▸ List.mem_cons_self
    · split at h
      · obtain rfl := Option.some.inj h; trivial
      · split at h
        · obtain rfl := Option.some.inj h; assumption
        · split at h
          · obtain rfl := Option.some.inj h; assumption
          · split at h
            · rename_i k hk
              obtain rfl := Option.some.inj h
              exact List.find?_some (p := fun k => (s.station k).report.pending) hk
            · split at h
              · rename_i k hk
                obtain rfl := Option.some.inj h
                exact List.find?_some (p := fun k => (s.station k).change.pending) hk
              · cases h

theorem State.onGrant_keepsSound (s : State) : s.KeepsSound A s.onGrant := by
  unfold State.onGrant
  split
  · rename_i place
    replace place : s.hqi.staging.length < 8 := place.2
    split
    · rename_i c hc
      have offered := State.offers_of_topClaim hc
      cases c with
      | control c => exact State.grantControl_keepsSound place c
      | slot i => exact State.grantSlot_keepsSound place offered
      | transfer r => exact State.grantTransfer_keepsSound place r
      | safe => exact State.grantSafe_keepsSound place offered
      | fault => exact State.grantFault_keepsSound place offered
      | stationState k => exact State.grantStationState_keepsSound place offered
      | change k => exact State.grantChange_keepsSound place offered
    · exact .refl s
  · exact .refl s

theorem State.onPostStart_keepsSound (s : State) : s.KeepsSound A s.onPostStart := by
  unfold State.onPostStart
  split
  · rename_i ready
    split
    · refine .of_holds s rfl fun ⟨one, noRead, _⟩ => ⟨one, noRead, ?_⟩
      rintro ⟨fetch, -⟩
      simp [ready.2] at fetch
    · exact .refl s
  · exact .refl s

/-- R180: what the end of a post leaves in flight. -/
theorem HostQueue.posted_inFlight (count : Nat) (h : HostQueue) :
    (h.posted count).inFlight = (h.staging.tail, h.fetch, h.heldCopy, h.taken, h.nonSlot, none) := by
  have aged (g : HostQueue) : g.startAge.inFlight = g.inFlight := by
    unfold HostQueue.startAge
    split <;> rfl
  unfold HostQueue.posted
  dsimp only
  split
  · exact aged _
  · rfl

/-- R180: the owner of a posted event clears its mark, and no other source is told. -/
theorem State.tellPosted_keepsSound {s : State} {h : HostQueue} {r : StagedRecord} {rest : List StagedRecord}
    (before : s.hqi.staging = r :: rest) (after : h.staging = rest)
    (rings : s.RingsSound → State.RingsSound { s with hqi := h }) :
    s.KeepsSound A (({ s with hqi := h } : State).tellPosted r.owner) := by
  cases owner : r.owner with
  | request =>
    exact ⟨id, id, fun _ => .of_tt rfl fun _ _ => id,
      .of_posted before after (fun o _ => by cases o <;> rfl) (by rw [owner]; rfl), rings⟩
  | fault =>
    refine ⟨.congr rfl, id, fun _ => .of_tt rfl fun _ _ => id, .of_posted before after ?_ (by rw [owner]; rfl), rings⟩
    rw [owner]
    exact fun
      | .fault, ho => absurd rfl ho
      | .request, _ | .safe, _ | .stationState _, _ | .change _, _ => rfl
  | safe =>
    refine ⟨id, id, fun _ => .of_tt rfl fun _ _ => id, .of_posted before after ?_ (by rw [owner]; rfl), rings⟩
    rw [owner]
    exact fun
      | .safe, ho => absurd rfl ho
      | .request, _ | .fault, _ | .stationState _, _ | .change _, _ => rfl
  | stationState k =>
    refine ⟨id, .updStation (s := { s with hqi := h }) (.congr rfl rfl rfl rfl),
      fun _ => .of_tt rfl fun _ _ => id, .of_posted before after (fun o ho => ?_) ?_, rings⟩
    · exact (State.updStation_mark_of_report (f := Station.reportPosted) (fun _ => rfl) o (owner ▸ ho)).trans
        (by cases o <;> rfl)
    · simp only [owner, State.tellPosted, State.mark, State.updStation_station]; rfl
  | change k =>
    refine ⟨id, .updStation (s := { s with hqi := h }) (.congr rfl rfl rfl rfl),
      fun _ => .of_tt rfl fun _ _ => id, .of_posted before after (fun o ho => ?_) ?_, rings⟩
    · exact (State.updStation_mark_of_change (f := Station.changePosted) (fun _ => rfl) o (owner ▸ ho)).trans
        (by cases o <;> rfl)
    · simp only [owner, State.tellPosted, State.mark, State.updStation_station]; rfl

theorem State.onPostEnd_keepsSound (s : State) : s.KeepsSound A s.onPostEnd := by
  unfold State.onPostEnd
  split
  · split
    · rename_i r rest a before _
      have left := s.hqi.posted_inFlight a.completion.count
      simp only [HostQueue.inFlight, Prod.mk.injEq] at left
      obtain ⟨staging, fetch, held, taken, nonSlot, post⟩ := left
      refine State.tellPosted_keepsSound before (by rw [staging, before]; rfl) (.of_le ?_ ?_ id ?_ ?_)
      · simp only [HostQueue.transferHolds, HostQueue.fetching, fetch, held, taken, nonSlot, le_refl]
      · simp only [HostQueue.fetching, fetch, imp_self]
      · simp only [fetch, imp_self]
      · simp [post]
    · exact .refl s
  · exact .refl s

theorem State.onAgeExpiry_keepsSound (s : State) : s.KeepsSound A s.onAgeExpiry := by
  unfold State.onAgeExpiry
  split
  · exact .of_hqi s rfl
  · exact .refl s

theorem State.halt_keepsSound (reason : HaltReason) (s : State) : s.KeepsSound A (s.halt reason) where
  faults := id
  stations := id
  slots := fun _ => .of_tt rfl fun _ _ h => nomatch h
  staging := fun ⟨_, fault, safe, report, change⟩ =>
    have empty {p m : Bool} {n : Nat} (h : oneUnposted p m n) : oneUnposted p m 0 := ⟨h.1, Nat.zero_le _⟩
    ⟨Nat.zero_le _, empty fault, empty safe, fun k => empty (report k), fun k => empty (change k)⟩
  rings := fun _ => ⟨Nat.zero_le _, fun ⟨h, _⟩ => Bool.noConfusion h, fun ⟨h, _⟩ => Bool.noConfusion h⟩

theorem State.onPortError_keepsSound (s : State) : s.KeepsSound A s.onPortError := by
  unfold State.onPortError
  split
  · split
    · exact s.halt_keepsSound _
    · split
      · exact s.halt_keepsSound _
      · exact .refl s
  · exact s.onDescriptorEnd_keepsSound _

end Sys2Proof.Machine
end

section
/-! What every step keeps: the requests of both rings, and time. -/

namespace Sys2Proof.Machine

variable {A : Prop}

/-! ### Requests of the control ring -/

theorem State.applyControl_keepsSound {k : RequestKind} {f : Record → State → State} {s : State}
    (h : ∀ r, s.KeepsSound A (f r s)) : s.KeepsSound A (s.applyControl k f) := by
  unfold State.applyControl
  split
  · exact .refl s
  · split
    · exact h _
    · exact s.completeControl_keepsSound _ _ _

theorem Station.sessionStart_keepsSound (e : Station) : e.KeepsSound e.sessionStart :=
  ⟨fun _ => .of_no_misses le_rfl rfl (fun h => nomatch h) (fun h => nomatch h), .dropped _ _, .dropped _ _⟩

theorem State.openSession_keepsSound (p : SessionParams) (s : State) : s.KeepsSound A (s.openSession p) := by
  refine .of_blocks ⟨fun _ => ⟨Nat.zero_le _, .nil, fun _ he => nomatch he⟩, .dropped _ _⟩ (fun k => ?_)
    (fun _ h => .of_states (s := s) rfl rfl rfl (fun _ => rfl) (fun _ => .inl rfl) h.2.2.2.2.2.2 h)
    (.refl _ _) rfl id
  have : (s.openSession p).station k = (s.station k).sessionStart := by
    simp [State.openSession, State.station]
  rw [this]
  exact Station.sessionStart_keepsSound _

theorem State.onOpenSession_keepsSound (r : Record) (s : State) : s.KeepsSound A (s.onOpenSession r) := by
  unfold State.onOpenSession
  split
  · exact s.completeControl_keepsSound _ _ _
  · exact (s.openSession_keepsSound _).trans (State.answer_keepsSound _ _)

theorem State.onStartCycles_keepsSound (r : Record) (s : State) : s.KeepsSound A (s.onStartCycles r) := by
  have run : s.KeepsSound A { s with sc := { s.sc with engine := .run } } :=
    .of_rest rfl rfl rfl (fun _ _ => id) rfl rfl id
  unfold State.onStartCycles
  refine run.trans ((State.firstCycle_keepsSound _).trans (.trans ?_ (State.answer_keepsSound _ _)))
  exact .of_rest rfl rfl rfl (fun _ _ => id) rfl rfl id

theorem State.beginTeardown_keepsSound (t : Teardown) (e : EndingCode) (g : EngineState) (s : State) :
    s.KeepsSound A (s.beginTeardown t e g) :=
  .of_blocks (.refl _) (fun _ => .refl _)
    (fun _ h => .of_states (s := s) rfl rfl rfl (fun _ => rfl) (fun _ => .inl rfl) h.2.2.2.2.2.2 h)
    (.refl _ _) rfl id

theorem State.applyStop_keepsSound (s : State) : s.KeepsSound A s.applyStop := by
  have stopped (u : State) : u.KeepsSound A (allStations.foldl State.stopStation u) :=
    .foldl State.stopStation_keepsSound allStations u
  unfold State.applyStop
  refine (s.endAllSlots_keepsSound (.ended .cyclesStopped)).trans ?_
  generalize s.endAllSlots (.ended .cyclesStopped) = u
  refine (stopped u).trans ?_
  dsimp only
  generalize allStations.foldl State.stopStation u = v
  refine v.clearSafe_keepsSound.trans ?_
  generalize v.clearSafe = w
  refine .trans ?_ (State.answer_keepsSound _ _)
  exact .of_rest rfl rfl rfl (fun _ _ => id) rfl rfl id

theorem State.applyClose_keepsSound (s : State) : s.KeepsSound A s.applyClose := by
  have closed (u : State) : u.KeepsSound A (allStations.foldl State.closeStation u) :=
    .foldl State.closeStation_keepsSound allStations u
  unfold State.applyClose
  refine (s.endAllSlots_keepsSound (.ended .sessionClosed)).trans ?_
  generalize s.endAllSlots (.ended .sessionClosed) = u
  refine (closed u).trans ?_
  dsimp only
  generalize allStations.foldl State.closeStation u = v
  refine v.clearSafe_keepsSound.trans ?_
  generalize v.clearSafe = w
  refine .trans ?_ (State.answer_keepsSound _ _)
  exact .of_owners (FaultList.endAll_keepsSound _) (fun _ => .refl _) rfl (fun _ _ => id) (.refl _ _) rfl id

theorem State.onStopCycles_keepsSound (r : Record) (s : State) : s.KeepsSound A (s.onStopCycles r) := by
  unfold State.onStopCycles
  refine (s.beginTeardown_keepsSound .stop .cyclesStopped .run).trans ?_
  dsimp only
  split
  · exact State.applyStop_keepsSound _
  · exact State.deferControl_keepsSound _

theorem State.onCloseSession_keepsSound (r : Record) (s : State) : s.KeepsSound A (s.onCloseSession r) := by
  unfold State.onCloseSession
  refine (s.beginTeardown_keepsSound .close .sessionClosed .closing).trans ?_
  dsimp only
  split
  · exact State.applyClose_keepsSound _
  · exact State.deferControl_keepsSound _

/-- R26: an entry set up with valid parameters is sound in PROBING. -/
theorem Station.configure_keepsSound {p : StationParams} (valid : p.valid = true) (image : List Byte)
    (stateEvents : Bool) (e : Station) :
    e.KeepsSound ((e.configure p image).moveTo stateEvents .probing) := by
  obtain ⟨limit, count, inputs, change⟩ := Station.moveTo_rest stateEvents .probing (e.configure p image)
  refine ⟨fun _ => .of_no_misses ?_ count (by simp) (by rw [inputs]; exact fun h => Bool.noConfusion h),
    (e.configure p image).moveTo_mark stateEvents .probing, by rw [change]; exact .dropped _ _⟩
  rw [limit]
  have miss : inRange 1 15 p.missLimit = true := by
    simp only [StationParams.valid, Bool.and_eq_true] at valid
    exact valid.1.2
  simp only [inRange, decide_eq_true_eq] at miss
  exact miss.1

theorem State.onConfigureStation_keepsSound (r : Record) (s : State) :
    s.KeepsSound A (s.onConfigureStation r) := by
  unfold State.onConfigureStation
  split
  · exact .refl s
  · rename_i k _
    split
    · exact s.answer_keepsSound _
    · split
      · exact s.answer_keepsSound _
      · split
        · exact s.answer_keepsSound _
        · rename_i valid _
          refine .trans ?_ (State.answer_keepsSound _ _)
          rw [State.moveStation, State.updStation_updStation]
          exact .of_station (Station.configure_keepsSound (by simpa using valid) _ _ _)

theorem State.onRemoveStation_keepsSound (r : Record) (s : State) : s.KeepsSound A (s.onRemoveStation r) := by
  unfold State.onRemoveStation
  split
  · exact .refl s
  · rename_i k _
    split
    · exact s.answer_keepsSound _
    · split
      · exact (s.removeStation_keepsSound k).trans (State.answer_keepsSound _ _)
      · have marked : s.KeepsSound A (s.updStation k fun e => { e with removePending := true }) :=
          State.updStation_keepsSound fun _ => ⟨rfl, rfl, rfl, rfl, rfl, rfl⟩
        exact marked.trans (State.deferControl_keepsSound _)

theorem State.onReadStation_keepsSound (r : Record) (s : State) : s.KeepsSound A (s.onReadStation r) := by
  unfold State.onReadStation
  split
  · exact .refl s
  · rename_i k _
    split
    · exact s.answer_keepsSound _
    · refine (s.completeControl_keepsSound .ok [] (s.station k).readData).trans ?_
      dsimp only
      split
      · exact State.updStation_keepsSound fun _ => ⟨rfl, rfl, rfl, rfl, rfl, rfl⟩
      · exact .refl _

theorem State.onReadStats_keepsSound (r : Record) (s : State) : s.KeepsSound A (s.onReadStats r) := by
  unfold State.onReadStats
  refine (s.completeControl_keepsSound .ok [] s.statsData).trans ?_
  dsimp only
  split
  · exact .of_rest rfl rfl rfl (fun _ _ => id) rfl rfl id
  · exact .refl _

theorem State.onAbort_keepsSound (r : Record) (s : State) : s.KeepsSound A (s.onAbort r) := by
  unfold State.onAbort
  split
  · exact s.answer_keepsSound _
  · rename_i i target
    split
    · exact .trans (State.updSlot_keepsSound rfl fun _ => .inl rfl) (State.deferControl_keepsSound _)
    · rename_i notOnLink
      have waiting : (s.slot i).state = .queued ∨ (s.slot i).state = .backoff := by
        rw [State.abortTarget_eq] at target
        have := (of_decide_eq_true (List.find?_some
          (p := fun i => decide ((s.slot i).tag = r.paramA ∧ (s.slot i).state.unfinished = true)) target)).2
        simp only [SlotState.unfinished_eq, Bool.or_eq_true, decide_eq_true_eq, notOnLink, or_false] at this
        exact this
      exact (s.endWaiting_keepsSound _ i waiting).trans ((State.answerAbort_keepsSound _ _ _ _).trans
        (State.reportEligible_keepsSound _))

theorem State.onAckFault_keepsSound (r : Record) (s : State) : s.KeepsSound A (s.onAckFault r) := by
  have acknowledged {f : FaultList} (h : s.fl.KeepsSound f) : s.KeepsSound A { s with fl := f } := .of_fl rfl h
  unfold State.onAckFault
  split
  · exact (acknowledged s.fl.acknowledgeAll_keepsSound).trans (State.completeControl_keepsSound _ _ _ _)
  · split
    · exact s.answer_keepsSound _
    · split
      · exact s.answer_keepsSound _
      · exact (acknowledged (FaultList.acknowledge_keepsSound ‹_›)).trans
          (State.completeControl_keepsSound _ _ _ _)

theorem State.onReadFaults_keepsSound (r : Record) (s : State) : s.KeepsSound A (s.onReadFaults r) := by
  unfold State.onReadFaults
  split
  · exact s.answer_keepsSound _
  · dsimp only
    refine (s.completeControl_keepsSound .ok ([byteOf s.fl.entries.length] ++ halfBytes s.fl.overflow
      ++ [byteOf ((s.fl.reports r.paramA.toNat).length / 8)]) (s.fl.reports r.paramA.toNat)).trans ?_
    split
    · exact .of_fl rfl ⟨.congr rfl, .refl _ _⟩
    · exact .refl _

theorem State.onResume_keepsSound (r : Record) (s : State) : s.KeepsSound A (s.onResume r) := by
  unfold State.onResume
  split
  · refine s.clearSafe_keepsSound.trans (.trans ?_ (State.answer_keepsSound _ _))
    exact .of_rest rfl rfl rfl (fun _ _ => id) rfl rfl id
  · exact s.answer_keepsSound _

/-! ### Requests of the transfer ring -/

theorem State.applyTransfer_keepsSound {k : RequestKind} {f : TakenRecord → State → State} {s : State}
    (h : ∀ t, s.hqi.taken.isSome = true → s.KeepsSound A (f t s)) : s.KeepsSound A (s.applyTransfer k f) := by
  unfold State.applyTransfer State.takenOf
  cases taken : s.hqi.taken with
  | none => exact .refl s
  | some t =>
    dsimp only
    split
    · exact .refl s
    · exact h _ (by rw [taken]; rfl)

theorem State.refreshed_keepsSound (s : State) : s.KeepsSound A { s with hm := s.hm.refresh } :=
  .of_rest rfl rfl rfl (fun _ _ => id)
    (by unfold HoldMonitor.refresh HoldMonitor.load; dsimp only; split <;> rfl) rfl id

theorem State.endConfirm_taken (k : StationId) (status : Status) (s : State) :
    (s.endConfirm k status).hqi.taken = s.hqi.taken := by
  rw [State.endConfirm_eq]

theorem State.onWriteOutputs_keepsSound (t : TakenRecord) {s : State} (taken : s.hqi.taken.isSome = true) :
    s.KeepsSound A (s.onWriteOutputs t) := by
  have replaced (k : StationId) (image : List Byte) : s.KeepsSound A (s.replaceOutputs k image) := by
    have superseded := s.endConfirm_keepsSound (A := A) k (.ended .superseded)
    have stored (u : State) : u.KeepsSound A (u.updStation k fun e => { e with outputImage := image }) :=
      State.updStation_keepsSound fun _ => ⟨rfl, rfl, rfl, rfl, rfl, rfl⟩
    exact superseded.trans ((stored _).trans (State.refreshed_keepsSound _))
  have still (k : StationId) (image : List Byte) : (s.replaceOutputs k image).hqi.taken.isSome = true := by
    simp only [State.replaceOutputs, State.updStation_hqi, State.endConfirm_taken, taken]
  unfold State.onWriteOutputs
  split
  · exact .refl s
  · rename_i k _
    split
    · exact State.completeTransfer_keepsSound taken _ _ _
    · split
      · exact State.completeTransfer_keepsSound taken _ _ _
      · refine (replaced k t.record.data).trans ?_
        dsimp only
        split
        · exact State.completeTransfer_keepsSound (still _ _) _ _ _
        · have deferred (u : State) : u.KeepsSound A (u.updStation k (Station.deferConfirm t)) :=
            State.updStation_keepsSound fun _ => ⟨rfl, rfl, rfl, rfl, rfl, rfl⟩
          exact (deferred _).trans (State.dropTaken_keepsSound _)

theorem State.onReadInputs_keepsSound (t : TakenRecord) {s : State} (taken : s.hqi.taken.isSome = true) :
    s.KeepsSound A (s.onReadInputs t) := by
  have answered (status : Status) (data : List Byte) : s.KeepsSound A (s.completeTransfer t status data) :=
    State.completeTransfer_keepsSound taken _ _ _
  unfold State.onReadInputs
  split
  · exact .refl s
  · split
    · exact answered _ _
    · split <;> exact answered _ _

theorem State.onSetWatch_keepsSound (t : TakenRecord) {s : State} (taken : s.hqi.taken.isSome = true) :
    s.KeepsSound A (s.onSetWatch t) := by
  unfold State.onSetWatch
  split
  · exact .refl s
  · rename_i k _
    split
    · exact State.completeTransfer_keepsSound taken _ _ _
    · split
      · exact State.completeTransfer_keepsSound taken _ _ _
      · have watched : s.KeepsSound A (s.updStation k fun e =>
            { e with watchMask := t.record.data, lastReported := e.inputImage }) :=
          State.updStation_keepsSound fun _ => ⟨rfl, rfl, rfl, rfl, rfl, rfl⟩
        exact watched.trans (State.completeTransfer_keepsSound (by exact taken) _ _ _)

theorem State.onKeepalive_keepsSound (t : TakenRecord) {s : State} (taken : s.hqi.taken.isSome = true) :
    s.KeepsSound A (s.onKeepalive t) := by
  unfold State.onKeepalive
  split
  · exact s.refreshed_keepsSound.trans (State.completeTransfer_keepsSound (by exact taken) _ _ _)
  · exact State.completeTransfer_keepsSound taken _ _ _

theorem State.acceptInto_keepsSound {s : State} {i : SlotId} (free : (s.slot i).state = .free)
    (kind : RemoteKind) (t : TakenRecord) (k : StationId) : s.KeepsSound A (s.acceptInto i kind t k) :=
  .of_slots rfl fun _ => .of_accept free rfl rfl
    (congrArg Slot.state (State.updSlot_slot i (fun _ => Slot.filled kind t k) s))
    (congrArg Slot.station (State.updSlot_slot i (fun _ => Slot.filled kind t k) s))
    (fun j hj => State.updSlot_slot_ne i j (fun _ => Slot.filled kind t k) s hj)
    (State.updFifo_fifo k (fun q => q ++ [i]) (s.updSlot i fun _ => Slot.filled kind t k))
    (fun j hj => State.updFifo_fifo_ne k j (fun q => q ++ [i]) (s.updSlot i fun _ => Slot.filled kind t k) hj) rfl

theorem State.onRemote_keepsSound (kind : RemoteKind) (t : TakenRecord) {s : State}
    (taken : s.hqi.taken.isSome = true) : s.KeepsSound A (s.onRemote kind t) := by
  unfold State.onRemote
  split
  · exact .refl s
  · split
    · exact State.completeTransfer_keepsSound taken _ _ _
    · split
      · exact .refl s
      · rename_i i lowest
        have free : (s.slot i).state = .free := of_decide_eq_true
          (List.find?_some (p := fun i => decide ((s.slot i).state = .free)) lowest)
        exact (State.acceptInto_keepsSound free _ _ _).trans ((State.dropTaken_keepsSound _).trans
          (State.reportEligible_keepsSound _))

/-! ### Time -/

theorem State.tick_keepsSound (s : State) : s.KeepsSound A s.tick := by
  unfold State.tick
  split
  · exact .of_rest rfl rfl rfl (fun _ _ => id) rfl rfl id
  · split
    · exact .refl s
    · have station (k : StationId) : s.tickTimers.station k
          = { s.station k with restartTimer := tickTimer (s.station k).restartTimer } := by
        simp [State.tickTimers, State.station]
      have slot (i : SlotId) : s.tickTimers.slot i
          = { s.slot i with backoffTimer := tickTimer (s.slot i).backoffTimer } := by
        simp [State.tickTimers, State.slot]
      refine .trans (t := s.tickTimers) (.of_blocks (.refl _) (fun k => ?_) (fun _ h => ?_) (.refl _ _) rfl id)
        (.of_rest rfl rfl rfl (fun _ _ => id) rfl rfl id)
      · rw [station]; exact ⟨.congr rfl rfl rfl rfl, .refl _ _, .refl _ _⟩
      · refine State.SlotsSound.of_states (s := s) rfl rfl rfl (fun i => by rw [slot])
          (fun i => .inl (by rw [slot])) (fun i k hi => ?_) h
        rw [slot]
        exact h.2.2.2.2.2.2 i k hi

end Sys2Proof.Machine
end

section
/-! The five invariants of the step (R36, R98, R124, R176, R178): every command keeps them, and so does a tick. -/

namespace Sys2Proof.Machine

/-- Every command is followed by a state that is as sound as the one before. -/
theorem exec_keepsSound (c : Instr) (s : State) : ∃ t, exec c s = .next t ∧ s.KeepsSound True t := by
  cases c with
  | powerOnReset => exact ⟨_, rfl, s.resetNow_keepsSound _⟩
  | enable v | controllerReset v | intEnableWrite v => exact ⟨_, rfl, s.writeRegister_keepsSound _ v⟩
  | submissionTailWrite _ v => exact ⟨_, rfl, s.writeRegister_keepsSound _ v⟩
  | completionHeadWrite v => exact ⟨_, rfl, s.writeRegister_keepsSound _ v⟩
  | otherRegisterWrite r v => exact ⟨_, rfl, s.writeRegister_keepsSound r v⟩
  | badRegisterAccess a => exact ⟨_, rfl, s.slaveAccess_keepsSound a⟩
  | descriptorReadEnd r => exact ⟨_, rfl, s.onDescriptorEnd_keepsSound r⟩
  | fetchStart => exact ⟨_, rfl, s.onFetchStart_keepsSound⟩
  | fetchEnd r => exact ⟨_, rfl, s.onFetchEnd_keepsSound r⟩
  | heldCopyTaken => exact ⟨_, rfl, s.onHeldCopyTaken_keepsSound⟩
  | invalidRequestRecord ring =>
    cases ring with
    | control => exact ⟨_, rfl, s.refuseControl_keepsSound⟩
    | transfer => exact ⟨_, rfl, s.refuseTransfer_keepsSound⟩
  | openSession => exact ⟨_, rfl, State.applyControl_keepsSound fun r => s.onOpenSession_keepsSound r⟩
  | startCycles => exact ⟨_, rfl, State.applyControl_keepsSound fun r => s.onStartCycles_keepsSound r⟩
  | stopCycles => exact ⟨_, rfl, State.applyControl_keepsSound fun r => s.onStopCycles_keepsSound r⟩
  | stopApplied =>
    refine ⟨_, rfl, ?_⟩
    split
    · exact s.applyStop_keepsSound
    · exact .refl s
  | closeSession => exact ⟨_, rfl, State.applyControl_keepsSound fun r => s.onCloseSession_keepsSound r⟩
  | closeApplied =>
    refine ⟨_, rfl, ?_⟩
    split
    · exact s.applyClose_keepsSound
    · exact .refl s
  | configureStation => exact ⟨_, rfl, State.applyControl_keepsSound fun r => s.onConfigureStation_keepsSound r⟩
  | removeStation => exact ⟨_, rfl, State.applyControl_keepsSound fun r => s.onRemoveStation_keepsSound r⟩
  | removalApplied =>
    refine ⟨_, rfl, ?_⟩
    split
    · exact .refl s
    · exact (s.removeStation_keepsSound _).trans (State.answer_keepsSound _ _)
  | readStation => exact ⟨_, rfl, State.applyControl_keepsSound fun r => s.onReadStation_keepsSound r⟩
  | readStats => exact ⟨_, rfl, State.applyControl_keepsSound fun r => s.onReadStats_keepsSound r⟩
  | abort => exact ⟨_, rfl, State.applyControl_keepsSound fun r => s.onAbort_keepsSound r⟩
  | abortResolved e =>
    refine ⟨_, rfl, ?_⟩
    split
    · exact s.onOutcomeEvent_keepsSound e
    · exact .refl s
  | ackFault => exact ⟨_, rfl, State.applyControl_keepsSound fun r => s.onAckFault_keepsSound r⟩
  | readFaults => exact ⟨_, rfl, State.applyControl_keepsSound fun r => s.onReadFaults_keepsSound r⟩
  | resume => exact ⟨_, rfl, State.applyControl_keepsSound fun r => s.onResume_keepsSound r⟩
  | writeOutputs => exact ⟨_, rfl, State.applyTransfer_keepsSound fun t h => State.onWriteOutputs_keepsSound t h⟩
  | readInputs => exact ⟨_, rfl, State.applyTransfer_keepsSound fun t h => State.onReadInputs_keepsSound t h⟩
  | setWatch => exact ⟨_, rfl, State.applyTransfer_keepsSound fun t h => State.onSetWatch_keepsSound t h⟩
  | keepalive => exact ⟨_, rfl, State.applyTransfer_keepsSound fun t h => State.onKeepalive_keepsSound t h⟩
  | remoteRead | remoteWrite | restartStation =>
    exact ⟨_, rfl, State.applyTransfer_keepsSound fun t h => State.onRemote_keepsSound _ t h⟩
  | cycleStart trigger =>
    refine ⟨_, rfl, ?_⟩
    split
    · exact s.onTrigger_keepsSound trigger
    · exact .refl s
  | cycleDue => exact ⟨_, rfl, s.onDue_keepsSound⟩
  | freeRunMinimumExpiry => exact ⟨_, rfl, s.onFreeRunMinimum_keepsSound⟩
  | emptyCycleGapExpiry => exact ⟨_, rfl, s.onEmptyGap_keepsSound⟩
  | frameSent => exact ⟨_, rfl, s.onFrameSent_keepsSound⟩
  | replyDelimiter => exact ⟨_, rfl, s.onCharacter_keepsSound _⟩
  | replyCharacter c | unexpectedCharacter c | characterDiscardedInAwaiting c =>
    exact ⟨_, rfl, s.onCharacter_keepsSound c⟩
  | responseTimeout => exact ⟨_, rfl, s.onResponseTimeout_keepsSound⟩
  | interByteTimeout => exact ⟨_, rfl, s.onInterByteTimeout_keepsSound⟩
  | gapEnd => exact ⟨_, rfl, s.onGapEnd_keepsSound⟩
  | runQuietEnd =>
    refine ⟨_, rfl, ?_⟩
    split
    · exact .of_lc _ s
    · exact .refl s
  | confirmComplete c =>
    refine ⟨_, rfl, ?_⟩
    split
    · exact s.onCharacter_keepsSound c
    · exact .refl s
  | backoffExpiry i => exact ⟨_, rfl, s.onBackoffExpiry_keepsSound i⟩
  | restartTimerExpiry k => exact ⟨_, rfl, s.onRestartExpiry_keepsSound k⟩
  | holdTimerExpiry => exact ⟨_, rfl, s.onHoldExpiry_keepsSound⟩
  | stagingGrant => exact ⟨_, rfl, s.onGrant_keepsSound⟩
  | postStart => exact ⟨_, rfl, s.onPostStart_keepsSound⟩
  | postEnd => exact ⟨_, rfl, s.onPostEnd_keepsSound⟩
  | ageTimerExpiry => exact ⟨_, rfl, s.onAgeExpiry_keepsSound⟩
  | masterPortError => exact ⟨_, rfl, s.onPortError_keepsSound⟩

theorem step_keepsSound {s t : State} (h : step s = .next t) : s.KeepsSound True t := by
  unfold step at h
  split at h
  · obtain rfl := Host.Outcome.next.inj h
    exact s.tick_keepsSound
  · rename_i c rest _
    have taken : s.KeepsSound True { s with pending := rest } := .of_rest rfl rfl rfl (fun _ _ => id) rfl rfl id
    obtain ⟨u, hu, kept⟩ := exec_keepsSound c { s with pending := rest }
    obtain rfl := Host.Outcome.next.inj (hu.symm.trans h)
    exact taken.trans kept

/-- Settles O56: raises, ends of cause and acknowledgements each keep the list sound. -/
theorem stepsKeepFaultListSound : Obligations.StepsKeepFaultListSound :=
  fun _ _ sound h => (step_keepsSound h).faults sound

/-- Settles O57: each move of a station comes with the miss count its state asks for. -/
theorem stepsKeepStationsSound : Obligations.StepsKeepStationsSound :=
  fun _ _ sound h => (step_keepsSound h).stations sound

/-- Settles O58: a slot is accepted, taken into hand, put back, ended and freed with its lists. -/
theorem stepsKeepSlotsSound : Obligations.StepsKeepSlotsSound :=
  fun _ _ sound h => (step_keepsSound h).slots trivial sound

/-- Settles O59: a grant takes one pending event into the buffer, and its post lets go of it. -/
theorem stepsKeepOneEventUnposted : Obligations.StepsKeepOneEventUnposted :=
  fun _ _ sound h => (step_keepsSound h).staging sound

/-- Settles O60: a record goes from its read to the latch and the completion, and nothing is read beside it. -/
theorem stepsKeepRingsSound : Obligations.StepsKeepRingsSound :=
  fun _ _ sound h => (step_keepsSound h).rings sound

/-- Settles O55. -/
theorem resetStateIsSound : Obligations.ResetStateIsSound := State.resetBy_sound .power

end Sys2Proof.Machine
end

section
/-! Steps, time and resets (R161, R165): the front command, the tick of the timebase, and the reset values. -/

namespace Sys2Proof.Machine

/-- Settles O1. -/
theorem stepRunsFrontCommand : Obligations.StepRunsFrontCommand := by
  intro c rest s front
  simp only [step, front]

/-! ### The tick -/

theorem step_of_empty_queue {s : State} (h : s.pending = []) : step s = .next s.tick := by
  simp only [step, h]

theorem State.expiryDue_iff (s : State) : s.expiryDue = true ↔ some 0 ∈ s.timers := by
  simp [State.expiryDue]

theorem State.tick_of_halted {s : State} (h : s.sc.engine = .halted) : s.tick = { s with now := s.now + 1 } :=
  if_pos h

theorem State.tick_of_due {s : State} (h : s.sc.engine ≠ .halted) (due : some 0 ∈ s.timers) : s.tick = s := by
  rw [State.tick, if_neg h, if_pos (s.expiryDue_iff.mpr due)]

theorem State.tick_of_none_due {s : State} (h : s.sc.engine ≠ .halted) (due : some 0 ∉ s.timers) :
    s.tick = { s.tickTimers with now := s.now + 1 } := by
  rw [State.tick, if_neg h, if_neg (s.expiryDue_iff.not.mpr due)]

theorem State.tickTimers_timers (s : State) : s.tickTimers.timers = s.timers.map (Option.map (· - 1)) := by
  simp only [State.timers, State.tickTimers, tickTimer, List.map_append, List.map_cons, List.map_nil,
    Vector.toList_map, List.map_map]
  rfl

theorem State.tickTimers_station (s : State) (k : StationId) :
    s.tickTimers.station k = { s.station k with restartTimer := tickTimer (s.station k).restartTimer } := by
  simp [State.tickTimers, State.station]

theorem State.tickTimers_slot (s : State) (i : SlotId) :
    s.tickTimers.slot i = { s.slot i with backoffTimer := tickTimer (s.slot i).backoffTimer } := by
  simp [State.tickTimers, State.slot]

/-- Settles O2: by the engine state and by whether an expiry is due. -/
theorem emptyQueueTicksTimebase : Obligations.EmptyQueueTicksTimebase := by
  intro s empty
  rw [step_of_empty_queue empty]
  refine ⟨fun halted => by rw [State.tick_of_halted halted], fun on due => by rw [State.tick_of_due on due],
    fun on due => ⟨_, congrArg Host.Outcome.next (State.tick_of_none_due on due), rfl, s.tickTimers_timers,
      rfl, rfl, rfl, rfl, rfl, rfl, rfl, rfl, rfl, fun k => ?_, rfl, fun i => ?_⟩⟩
  · have := s.tickTimers_station k
    show s.tickTimers.station k = { s.station k with restartTimer := (s.tickTimers.station k).restartTimer }
    rw [this]
  · have := s.tickTimers_slot i
    show s.tickTimers.slot i = { s.slot i with backoffTimer := (s.tickTimers.slot i).backoffTimer }
    rw [this]

/-! ### The reset values -/

/-- What a register reads after a reset does not depend on the commands that wait. -/
theorem State.readRegister_resetNow (cause : ResetCause) (s : State) (r : Register) :
    (s.resetNow cause).readRegister r = (State.resetBy cause).readRegister r := by
  cases r <;> rfl

/-- R161, R165: every register reads 0 after a reset but ID and STATUS, which holds the reset cause. -/
theorem State.readRegister_resetBy (cause : ResetCause) (r : Register) :
    (State.resetBy cause).readRegister r = match r with
      | .id => 0x00010D31
      | .status => match cause with | .power => 0x40 | .controller => 0x80
      | _ => 0 := by
  cases cause <;> cases r <;> decide

theorem State.resetNow_station (cause : ResetCause) (s : State) (k : StationId) :
    (s.resetNow cause).station k = Station.reset := by
  simp [State.resetNow, State.resetBy, State.station]

theorem State.resetNow_slot (cause : ResetCause) (s : State) (i : SlotId) :
    (s.resetNow cause).slot i = Slot.reset := by
  simp [State.resetNow, State.resetBy, State.slot, TransactionTable.reset]

theorem State.resetNow_fifo (cause : ResetCause) (s : State) (k : StationId) :
    (s.resetNow cause).fifo k = [] := by
  simp [State.resetNow, State.resetBy, State.fifo, TransactionTable.reset]

/-- Settles O3: the reset state, field by field, is the one the manual gives. -/
theorem powerOnResetValues : Obligations.PowerOnResetValues := by
  intro s
  have reads (r : Register) := (s.readRegister_resetNow .power r).trans (State.readRegister_resetBy .power r)
  refine ⟨s.resetNow .power, rfl, reads .status, reads .id, fun r _ _ => ?_, rfl, rfl, rfl, rfl, rfl, rfl, rfl,
    s.resetNow_station .power, s.resetNow_slot .power, s.resetNow_fifo .power, rfl, rfl, rfl, rfl, rfl, rfl,
    rfl, rfl, rfl, rfl, rfl, rfl, rfl, fun a low offset => ?_⟩
  · rw [reads]
    cases r <;> trivial
  have inReset := (State.slaveAccess_spec a s).2.1 offset low
  refine congrArg Host.Outcome.next (inReset.trans ?_)
  simp only [Sys2Proof.Machine.SlaveAccess.good_iff a]

end Sys2Proof.Machine
end

section
/-! The host bus (R138, R144, R162, R165, R168, R170): writes to CONTROL and to the submission tails, the other
accesses, and what the registers read. -/

namespace Sys2Proof.Machine

/-! ### CONTROL (R144, R162, R184) -/

/-- The three rows of a CONTROL write are one access. -/
theorem exec_controlWrites {c : Instr} {v : Word} (h : c ∈ controlWrites v) (s : State) :
    exec c s = .next { s.writeControl v with bus := .written } := by
  simp only [controlWrites, List.mem_cons, List.not_mem_nil, or_false] at h
  rcases h with rfl | rfl | rfl <;> rfl

/-- A write that leaves ENABLE as it reads takes INT_ENABLE alone. -/
theorem State.writeControl_of_same {s : State} {v : Word} (h : v.getLsbD 0 = s.hqi.enable) :
    s.writeControl v = { s with hqi := { s.hqi with intEnable := v.getLsbD 1 } } := by
  unfold State.writeControl
  rw [h]
  cases s.hqi.enable <;> rfl

/-- R162: clearing ENABLE is the controller reset. -/
theorem State.writeControl_of_cleared {s : State} {v : Word} (reads : s.hqi.enable = true)
    (written : v.getLsbD 0 = false) : s.writeControl v = s.resetNow .controller := by
  simp only [State.writeControl, written, reads]

/-- R144: setting ENABLE starts the descriptor read. -/
theorem State.writeControl_of_set {s : State} {v : Word} (reads : s.hqi.enable = false)
    (written : v.getLsbD 0 = true) : s.writeControl v = s.startEnable (v.getLsbD 1) := by
  simp only [State.writeControl, written, reads]

/-- Settles O4: by ENABLE as written and as it reads. -/
theorem controlWriteEnablesResetsOrMasks : Obligations.ControlWriteEnablesResetsOrMasks := by
  intro s v c hc
  rw [exec_controlWrites hc]
  have reads (r : Register) : State.readRegister { s.resetNow .controller with bus := .written } r
      = (State.resetBy .controller).readRegister r :=
    (s.readRegister_resetNow .controller r)
  refine ⟨fun off written => ?_, fun on written => ?_, fun same => ?_⟩
  · rw [State.writeControl_of_set off written]
    rfl
  · rw [State.writeControl_of_cleared on written]
    exact ⟨_, rfl, rfl, (reads .status).trans (State.readRegister_resetBy .controller .status),
      (reads .control).trans (State.readRegister_resetBy .controller .control),
      (reads .ringBase).trans (State.readRegister_resetBy .controller .ringBase), rfl, rfl⟩
  · rw [State.writeControl_of_same same]
    exact ⟨_, rfl, rfl, rfl⟩

/-! ### The submission tails (R168, R170) -/

/-- R170: a withdrawal happens where the tail stands at the head. -/
theorem HostQueue.withdraw_eq {ring : SubmissionRing} {h : HostQueue} (n head tail : Nat)
    (pending : h.pendingIn ring = span n head tail) (hhead : head < n) (htail : tail < n) :
    h.withdraw ring = if tail ≠ head then h else { h with
      heldCopy := if ring = .transfer then none else h.heldCopy
      fetch := h.fetch.map fun f => if f.ring = ring then { f with withdrawn := true } else f } := by
  unfold HostQueue.withdraw
  simp only [pending, span_eq_zero_iff hhead htail, ne_eq, ite_not]

/-- Settles O5: by the value against the entry count, and the tail against the head. -/
theorem submissionTailWriteJudged : Obligations.SubmissionTailWriteJudged := by
  intro s v
  have row (ring : SubmissionRing) : exec (.submissionTailWrite ring v) s
      = .next { s.registerEffect (tailRegister ring) v with bus := .written } := rfl
  refine ⟨fun off ring => ?_, fun a ha on => ⟨fun above => ?_, fun above => ?_, fun head below => ?_,
    fun head below => ?_⟩⟩
  · rw [row]
    cases ring <;> simp only [tailRegister, State.registerEffect, State.judgedWrite_of_off off]
  all_goals
    rw [row]
    simp only [tailRegister, State.registerEffect, State.judgedWrite_of_attachment ha on]
  · rw [HostQueue.writeControlTail, if_neg (Nat.not_lt.mpr above)]
  · rw [HostQueue.writeTransferTail, if_neg (Nat.not_lt.mpr above)]
  · rw [HostQueue.writeControlTail, if_pos below, HostQueue.withdraw_eq a.control.count s.hqi.controlHead v.toNat
      (by simp only [HostQueue.pendingIn, HostQueue.controlPending, ha]) head below]
    by_cases h : v.toNat = s.hqi.controlHead <;> simp [h]
  · rw [HostQueue.writeTransferTail, if_pos below, HostQueue.withdraw_eq a.transfer.count s.hqi.transferHead v.toNat
      (by simp only [HostQueue.pendingIn, HostQueue.transferPending, ha]) head below]
    by_cases h : v.toNat = s.hqi.transferHead <;> simp [h]

end Sys2Proof.Machine
end

section
/-! Reads of the register window (R138, R165, R166): fields side by side, and what STATUS shows. -/

namespace Sys2Proof.Machine

/-! ### Fields of a register -/

theorem field_toNat {n p : Nat} (h : 2 ^ p * n < 2 ^ 32) : (field n p).toNat = 2 ^ p * n := by
  have : n < 2 ^ 32 := (Nat.le_mul_of_pos_left n (Nat.two_pow_pos p)).trans_lt h
  rw [field, BitVec.toNat_shiftLeft, BitVec.toNat_ofNat, Nat.mod_eq_of_lt this, Nat.shiftLeft_eq, Nat.mul_comm,
    Nat.mod_eq_of_lt h]

/-- A field above the bits in use adds its value at its place. -/
theorem or_field_toNat {w : Word} {n p : Nat} (hw : w.toNat < 2 ^ p) (h : 2 ^ p * n < 2 ^ 32) :
    (w ||| field n p).toNat = w.toNat + 2 ^ p * n := by
  rw [BitVec.toNat_or, field_toNat h, Nat.or_comm, ← Nat.two_pow_add_eq_or_of_lt hw, Nat.add_comm]

/-- An index register reads the index. -/
theorem field_index_toNat {n : Nat} (h : n < 1024) : (field (n % 1024) 0).toNat = n := by
  rw [Nat.mod_eq_of_lt h, field_toNat (by omega)]
  omega

theorem State.controlWord_toNat (s : State) :
    s.controlWord.toNat = s.hqi.enable.toNat + 2 * s.hqi.intEnable.toNat := by
  have := s.hqi.enable.toNat_le
  have := s.hqi.intEnable.toNat_le
  have enable : (bitField s.hqi.enable 0).toNat = s.hqi.enable.toNat := by
    rw [bitField, field_toNat (by omega)]
    omega
  rw [State.controlWord, bitField.eq_def s.hqi.intEnable, or_field_toNat (by omega) (by omega), enable,
    Nat.pow_one]

/-! ### STATUS -/

theorem State.intPending_eq (s : State) : s.intPending = decide (s.sc.engine = .halted
    ∨ s.hqi.threshold ≤ s.hqi.unread ∨ (1 ≤ s.hqi.unread ∧ s.hqi.delayReached = true)) := by
  simp only [State.intPending, Bool.decide_or, Bool.decide_and, Bool.decide_eq_true, Bool.or_assoc]

theorem FaultList.headKind_lt (f : FaultList) : f.headKind < 8 := by
  unfold FaultList.headKind
  cases f.entries with
  | nil => simp
  | cons e _ => cases h : e.kind <;> simp [FaultKind.code, h]

/-- R166: STATUS holds its ten fields side by side. -/
theorem State.status_toNat {s : State} (entries : s.fl.entries.length ≤ 16) (station : s.fl.headStation ≤ 31) :
    s.status.toNat = s.sc.engine.code + 2 ^ 3 * s.hm.safe.toNat + 2 ^ 4 * s.sc.haltReason.code
      + 2 ^ 6 * s.sc.resetCause.code + 2 ^ 8 * s.fl.entries.length
      + 2 ^ 13 * (decide (s.fl.overflow ≠ 0)).toNat + 2 ^ 14 * s.hqi.indexError.toNat
      + 2 ^ 15 * s.intPending.toNat + 2 ^ 16 * s.fl.headKind + 2 ^ 24 * s.fl.headStation := by
  have engine : s.sc.engine.code < 8 := by cases s.sc.engine <;> decide
  have halt : s.sc.haltReason.code < 4 := by cases s.sc.haltReason <;> decide
  have cause : s.sc.resetCause.code < 4 := by cases s.sc.resetCause <;> decide
  have kind := s.fl.headKind_lt
  have safe := s.hm.safe.toNat_le
  have overflow := (decide (s.fl.overflow ≠ 0)).toNat_le
  have mark := s.hqi.indexError.toNat_le
  have int := s.intPending.toNat_le
  simp only [State.status, bitField, Nat.mod_eq_of_lt kind, Nat.mod_eq_of_lt (show s.fl.entries.length < 32 by omega),
    Nat.mod_eq_of_lt (show s.fl.headStation < 32 by omega)]
  generalize hb : field s.sc.engine.code 0 = w0
  have h0 : w0.toNat = s.sc.engine.code := by rw [← hb, field_toNat (by omega)]; omega
  have h1 := or_field_toNat (w := w0) (n := s.hm.safe.toNat) (p := 3) (by omega) (by omega)
  have h2 := or_field_toNat (n := s.sc.haltReason.code) (p := 4) (w := _) (by rw [h1]; omega) (by omega)
  have h3 := or_field_toNat (n := s.sc.resetCause.code) (p := 6) (w := _) (by rw [h2]; omega) (by omega)
  have h4 := or_field_toNat (n := s.fl.entries.length) (p := 8) (w := _) (by rw [h3]; omega) (by omega)
  have h5 := or_field_toNat (n := (decide (s.fl.overflow ≠ 0)).toNat) (p := 13) (w := _) (by rw [h4]; omega) (by omega)
  have h6 := or_field_toNat (n := s.hqi.indexError.toNat) (p := 14) (w := _) (by rw [h5]; omega) (by omega)
  have h7 := or_field_toNat (n := s.intPending.toNat) (p := 15) (w := _) (by rw [h6]; omega) (by omega)
  have h8 := or_field_toNat (n := s.fl.headKind) (p := 16) (w := _) (by rw [h7]; omega) (by omega)
  have h9 := or_field_toNat (n := s.fl.headStation) (p := 24) (w := _) (by rw [h8]; omega) (by omega)
  rw [h9, h8, h7, h6, h5, h4, h3, h2, h1, h0]

/-! ### The accesses -/

theorem FaultList.headStation_le {f : FaultList} (h : ∀ e ∈ f.entries, e.station ≤ 31) : f.headStation ≤ 31 := by
  unfold FaultList.headStation
  cases entries : f.entries with
  | nil => exact Nat.zero_le _
  | cons e rest => exact h e (by rw [entries]; exact List.mem_cons_self)

theorem Register.atOffset_offset (r : Register) : Register.atOffset r.offset = some r := by
  cases r <;> rfl

theorem Register.offset_aligned (r : Register) : r.offset % 4 = 0 ∧ r.offset < 0x28 := by
  cases r <;> decide

/-- Settles O7: the writes and the bad accesses first, then what each register reads. -/
theorem otherAccessesAnswered : Obligations.OtherAccessesAnswered := by
  refine ⟨fun s v => rfl, fun s v r hr => ?_, fun s a released range bad => ?_, fun s v r => ?_, fun s =>
    ⟨rfl, rfl, s.controlWord_toNat, field_index_toNat, field_index_toNat, field_index_toNat, field_index_toNat,
      field_index_toNat, field_index_toNat⟩, fun s entries stations => ?_⟩
  · simp only [List.mem_cons, List.not_mem_nil, or_false] at hr
    rcases hr with rfl | rfl | rfl | rfl | rfl <;> rfl
  · have notGood : a.good = false := by
      rw [← Bool.not_eq_true, Sys2Proof.Machine.SlaveAccess.good_iff]
      omega
    exact congrArg Host.Outcome.next ((State.slaveAccess_spec a s).2.2.1 range released notGood)
  · have good : SlaveAccess.good { write := false, offset := r.offset, width := 4, value := v } = true :=
      (Sys2Proof.Machine.SlaveAccess.good_iff _).mpr ⟨rfl, Sys2Proof.Machine.Register.offset_aligned r⟩
    exact congrArg Host.Outcome.next
      ((State.slaveAccess_spec _ s).2.2.2 r good rfl (Register.atOffset_offset r))
  · refine (s.status_toNat entries (FaultList.headStation_le stations)).trans ?_
    rw [State.intPending_eq, HostQueue.indexError]
    unfold FaultList.headKind FaultList.headStation
    cases list : s.fl.entries with
    | nil => cases s.sc.engine <;> cases s.sc.haltReason <;> cases s.sc.resetCause <;> rfl
    | cons e _ =>
      obtain ⟨kind, _⟩ := e
      cases kind <;> cases s.sc.engine <;> cases s.sc.haltReason <;> cases s.sc.resetCause <;> rfl

end Sys2Proof.Machine
end

section
/-! Fetching and taking (R170 to R173): which ring is read, and what the end of a fetch does. -/

namespace Sys2Proof.Machine

/-! ### The fetch engine (R171, R173) -/

theorem State.controlCandidate_iff (s : State) :
    s.controlCandidate = true ↔ 1 ≤ s.hqi.controlPending ∧ s.sc.request = none := by
  simp [State.controlCandidate]

theorem State.transferCandidate_iff (s : State) :
    s.transferCandidate = true ↔ 1 ≤ s.hqi.transferPending ∧ s.hqi.heldCopy = none ∧ s.hqi.nonSlot = none
      ∧ s.hqi.taken = none := by
  simp [State.transferCandidate, and_assoc]

theorem State.postReady_eq_false_iff {s : State} (serving : s.sc.engine.serving = true) (post : s.hqi.post = none) :
    s.postReady = false ↔ s.hqi.staging = [] ∨ s.hqi.ringFull = true := by
  simp [State.postReady, serving, post, Classical.or_iff_not_imp_left]

/-- R173: with the port free and no post to go first, the control ring goes before the transfer ring. -/
theorem State.onFetchStart_of_free {s : State} (serving : s.sc.engine.serving = true) (fetch : s.hqi.fetch = none)
    (post : s.hqi.post = none) (free : s.hqi.staging = [] ∨ s.hqi.ringFull = true) :
    s.onFetchStart = if s.controlCandidate then s.startFetch .control s.hqi.controlHead
      else if s.transferCandidate then s.startFetch .transfer s.hqi.transferHead
      else s :=
  if_pos ⟨serving, fetch, post, by simp [(State.postReady_eq_false_iff serving post).mpr free]⟩

/-- Settles O9: by the port, then the candidates in order. -/
theorem fetchStartServesControlFirst : Obligations.FetchStartServesControlFirst := by
  intro s
  refine ⟨fun busy => congrArg Host.Outcome.next (if_neg ?_), fun serving fetch post => ⟨fun notFree =>
    congrArg Host.Outcome.next (if_neg ?_), fun free control => ?_, fun free notControl transfer => ?_,
    fun free notControl notTransfer => ?_⟩⟩
  · rintro ⟨serving, fetch, post, -⟩
    simp [serving, fetch, post] at busy
  · rintro ⟨-, -, -, quiet⟩
    exact notFree ((State.postReady_eq_false_iff serving post).mp (by simpa using quiet))
  all_goals refine congrArg Host.Outcome.next ((State.onFetchStart_of_free serving fetch post free).trans ?_)
  · exact if_pos (s.controlCandidate_iff.mpr control)
  · rw [if_neg (s.controlCandidate_iff.not.mpr notControl), if_pos (s.transferCandidate_iff.mpr transfer)]
    rfl
  · rw [if_neg (s.controlCandidate_iff.not.mpr notControl), if_neg (s.transferCandidate_iff.not.mpr notTransfer)]

/-! ### The end of a fetch (R170, R172) -/

/-- R172: the holding test by the kind the record names. -/
theorem State.mustHold_iff_kind (s : State) (r : Record) : s.mustHold r = true ↔
    ((r.kind = some .remoteRead ∨ r.kind = some .remoteWrite ∨ r.kind = some .restartStation) ∧ s.tt.freeCount = 0)
      ∨ (r.kind = some .writeOutputs ∧ ∃ k, r.station = some k ∧ (s.station k).results ≠ []) := by
  unfold State.mustHold
  cases r.kind with
  | none => simp
  | some kind =>
    cases kind
    case writeOutputs => cases r.station <;> simp
    all_goals simp

/-- R172: the holding test by the record's bytes. -/
theorem State.mustHold_iff (s : State) (r : Record) : s.mustHold r = true ↔ s.Holds r := by
  simp only [State.mustHold_iff_kind, State.Holds, TransactionTable.freeCount_eq_zero_iff, r.kind_eq_some_iff,
    r.station_eq_some_iff, List.mem_cons, List.not_mem_nil, or_false, RequestKind.code]
  exact Iff.rfl

/-- R170: what a fetch does once its record is there. -/
theorem State.onFetchEnd_of_fetch {s : State} {f : Fetch} (r : Record) (h : s.hqi.fetch = some f) :
    s.onFetchEnd r = if f.withdrawn = true ∨ s.hqi.pendingIn f.ring = 0 then
        { s with hqi := { s.hqi with fetch := none } }
      else match f.ring with
        | .control => State.takeControl r { s with hqi := { s.hqi with fetch := none } }
        | .transfer => if s.mustHold r then { s with hqi := { s.hqi with fetch := none, heldCopy := some r } }
          else State.takeTransfer r { s with hqi := { s.hqi with fetch := none } } := by
  have pending (ring : SubmissionRing) :
      HostQueue.pendingIn { s.hqi with fetch := none } ring = s.hqi.pendingIn ring := by
    cases ring <;> rfl
  simp only [State.onFetchEnd, h, pending]
  rfl

theorem State.takeControl_of_attachment {s : State} {a : RingAttachment} (r : Record)
    (h : s.hqi.attachment = some a) : s.takeControl r = { s with
      hqi := { s.hqi with controlHead := (s.hqi.controlHead + 1) % a.control.count }
      sc := { s.sc with
        request := some { record := r, index := s.hqi.controlHead, stage := .applying } } } := by
  simp only [State.takeControl, h, nextIndex]

theorem State.takeTransfer_of_attachment {s : State} {a : RingAttachment} (r : Record)
    (h : s.hqi.attachment = some a) : s.takeTransfer r = { s with
      hqi := { s.hqi with
        transferHead := (s.hqi.transferHead + 1) % a.transfer.count
        heldCopy := none
        taken := some { record := r, index := s.hqi.transferHead } } } := by
  simp only [State.takeTransfer, h, nextIndex]

/-- Settles O10: by the withdrawal, the ring and the holding test. -/
theorem fetchEndTakesHoldsOrDiscards : Obligations.FetchEndTakesHoldsOrDiscards := by
  intro s r a attached
  have held := s.mustHold_iff r
  refine ⟨fun f hf => ?_, fun copy => ⟨fun holds => ?_, fun free => ?_⟩⟩
  · have row := State.onFetchEnd_of_fetch r hf
    refine ⟨fun gone => congrArg Host.Outcome.next (row.trans (if_pos gone)), fun kept pending =>
      ⟨fun control => ?_, fun transfer holds => ?_, fun transfer free => ?_⟩⟩
    all_goals
      rw [if_neg (by simp only [kept, Bool.false_eq_true, false_or]; omega)] at row
      refine congrArg Host.Outcome.next (row.trans ?_)
    · rw [control]
      exact State.takeControl_of_attachment r attached
    · rw [transfer]
      exact if_pos (held.mpr holds)
    · rw [transfer]
      exact (if_neg (held.not.mpr free)).trans (State.takeTransfer_of_attachment r attached)
  · exact congrArg Host.Outcome.next (by rw [State.onHeldCopyTaken, copy]; exact if_pos (held.mpr holds))
  · refine congrArg Host.Outcome.next ?_
    rw [State.onHeldCopyTaken, copy]
    exact (if_neg (held.not.mpr free)).trans (State.takeTransfer_of_attachment r attached)

end Sys2Proof.Machine
end

section
/-! The common checks of a request record (R174), and what a refusal there answers. -/

namespace Sys2Proof.Machine

/-! ### The checks, on the record's bytes -/

theorem Record.commonCheck_unknown {r : Record} (ring : SubmissionRing) (h : r.kind = none) :
    r.commonCheck ring = some .unknownKind := by
  simp only [Record.commonCheck, h]

theorem Record.commonCheck_wrongRing {r : Record} {k : RequestKind} {ring : SubmissionRing} (h : r.kind = some k)
    (other : k.ring ≠ ring) : r.commonCheck ring = some .wrongRing := by
  simp only [Record.commonCheck, h, if_pos other]

/-- On the ring of its kind, a record is judged by its station and then by its data length. -/
theorem Record.commonCheck_ownRing {r : Record} {ring : SubmissionRing} {names : Prop}
    (h : ∃ k, RequestKind.ofCode r[0] = some k ∧ k.ring = ring ∧ (k.namesStation = true ↔ names)) :
    (names → ¬ (1 ≤ r[4].toNat ∧ r[4].toNat ≤ 31) → r.commonCheck ring = some .badStation)
    ∧ (names → (1 ≤ r[4].toNat ∧ r[4].toNat ≤ 31) → 32 < r[5].toNat → r.commonCheck ring = some .badLength)
    ∧ (¬ names ∨ ((1 ≤ r[4].toNat ∧ r[4].toNat ≤ 31) ∧ r[5].toNat ≤ 32) → r.commonCheck ring = none) := by
  obtain ⟨k, hk, rfl, hn⟩ := h
  have kind : r.kind = some k := hk
  have unnamed := r.station_eq_none_iff
  simp only [Record.commonCheck, kind, ne_eq, not_true_eq_false, if_false]
  refine ⟨fun named bad => if_pos ⟨hn.mpr named, unnamed.mpr bad⟩, fun named good long => ?_, fun pass => ?_⟩
  · rw [if_neg (fun bad => unnamed.mp bad.2 good)]
    exact if_pos ⟨hn.mpr named, long⟩
  · rw [if_neg (fun bad => pass.elim (absurd (hn.mp bad.1)) fun p => unnamed.mp bad.2 p.1)]
    exact if_neg (fun bad => pass.elim (absurd (hn.mp bad.1)) fun p => Nat.not_lt.mpr p.2 bad.2)

/-! ### The refusals -/

theorem State.refuseControl_of_applying {s : State} {q : ControlRequest} (request : s.sc.request = some q)
    (stage : q.stage = .applying) : s.refuseControl = match q.record.commonCheck .control with
      | some d => s.controlAnswered q (.rejected d) [] []
      | none => s := by
  unfold State.refuseControl
  simp only [request, stage]
  cases q.record.commonCheck .control with
  | none => rfl
  | some d => exact State.answer_of_request request _

theorem State.refuseTransfer_of_taken {s : State} {t : TakenRecord} (taken : s.hqi.taken = some t) :
    s.refuseTransfer = match t.record.commonCheck .transfer with
      | some d => s.transferAnswered t (.rejected d) []
      | none => s := by
  unfold State.refuseTransfer
  simp only [taken]
  cases t.record.commonCheck .transfer <;> rfl

/-- Settles O11: the checks in order, first for the control ring and then for the transfer ring. -/
theorem commonChecksRefuseInOrder : Obligations.CommonChecksRefuseInOrder := by
  intro s r
  have unknown := (RequestKind.ofCode_eq_none_iff r[0]).mpr
  refine ⟨fun q request record stage => ?_, fun t taken record => ?_⟩
  · have row : exec (.invalidRequestRecord .control) s = .next _ :=
      congrArg Host.Outcome.next (State.refuseControl_of_applying request stage)
    rw [record] at row
    have own (hc : 1 ≤ r[0].toNat ∧ r[0].toNat ≤ 0x0C) :=
      Record.commonCheck_ownRing (r := r) (RequestKind.control_code r[0] hc)
    refine ⟨fun hc ht => ?_, fun ht => ?_, fun hc named bad => ?_, fun hc named good long => ?_, fun hc pass => ?_⟩
    · rw [row, Record.commonCheck_unknown .control (unknown ⟨hc, ht⟩)]
    · obtain ⟨k, hk, ring, -⟩ := RequestKind.transfer_code r[0] ht
      rw [row, Record.commonCheck_wrongRing (k := k) hk (by rw [ring]; decide)]
    · rw [row, (own hc).1 named bad]
    · rw [row, (own hc).2.1 named good long]
    · rw [row, (own hc).2.2 pass]
  · have row : exec (.invalidRequestRecord .transfer) s = .next _ :=
      congrArg Host.Outcome.next (State.refuseTransfer_of_taken taken)
    rw [record] at row
    have own (ht : 0x21 ≤ r[0].toNat ∧ r[0].toNat ≤ 0x27) :=
      Record.commonCheck_ownRing (r := r) (RequestKind.transfer_code r[0] ht)
    refine ⟨fun hc ht => ?_, fun hc => ?_, fun ht named bad => ?_, fun ht named good long => ?_, fun ht pass => ?_⟩
    · rw [row, Record.commonCheck_unknown .transfer (unknown ⟨hc, ht⟩)]
    · obtain ⟨k, hk, ring, -⟩ := RequestKind.control_code r[0] hc
      rw [row, Record.commonCheck_wrongRing (k := k) hk (by rw [ring]; decide)]
    · rw [row, (own ht).1 named bad]
    · rw [row, (own ht).2.1 named good long]
    · rw [row, (own ht).2.2 pass]

end Sys2Proof.Machine
end

section
/-! The staging arbiter (R178, R179): which claim is the top one, and what the owner of the granted claim makes
of it. -/

namespace Sys2Proof.Machine

/-! ### The top claim -/

/-- R178: a free place goes to the top claim. -/
theorem exec_stagingGrant_of_claim {s : State} {c : Claim} (serving : s.sc.engine.serving = true)
    (place : s.hqi.staging.length < 8) (top : s.topClaim = some c) :
    exec .stagingGrant s = .next (s.grant c) := by
  refine congrArg Host.Outcome.next ((State.onGrant_of_place serving place).trans ?_)
  rw [top]

theorem State.topClaim_of_ready {s : State} {q : ControlRequest} {c : Completion} (request : s.sc.request = some q)
    (stage : q.stage = .ready c) : s.topClaim = some (.control c) := by
  obtain ⟨record, index, _⟩ := q
  cases stage
  simp only [State.topClaim, SessionController.readyCompletion, request]

theorem State.topClaim_of_done {s : State} (h : s.NoneReady) {i : SlotId} {rest : List SlotId}
    (done : s.tt.doneQueue = i :: rest) : s.topClaim = some (.slot i) := by
  simp only [State.topClaim, State.readyCompletion_of_noneReady h, done]

theorem State.topClaim_of_listed {s : State} (h : s.NoneReady) (done : s.tt.doneQueue = []) {r : ReadyEntry}
    {rest : List ReadyEntry} (listed : s.hqi.readyList = r :: rest) : s.topClaim = some (.transfer r) := by
  simp only [State.topClaim, State.readyCompletion_of_noneReady h, done, listed]

/-- With no completion waiting, the events are offered in their order. -/
theorem State.topClaim_of_no_completion {s : State} (h : s.NoneReady) (done : s.tt.doneQueue = [])
    (list : s.hqi.readyList = []) : s.topClaim =
      if s.hm.event.pending = true then some .safe else if s.fl.pending = true then some .fault
      else (s.firstStateReport.map Claim.stationState).or (s.firstChange.map Claim.change) := by
  simp only [State.topClaim, State.readyCompletion_of_noneReady h, done, list]
  cases s.firstStateReport <;> cases s.firstChange <;> rfl

/-! ### Completions (R112, R146, R177) -/

/-- Settles O12: the control request, then the done queue, then the ready list. -/
theorem grantsServeCompletionsInOrder : Obligations.GrantsServeCompletionsInOrder := by
  intro s
  refine ⟨fun none => congrArg Host.Outcome.next (if_neg ?_), fun serving place => ⟨fun q c request ready => ?_,
    fun h i rest kind k result done hkind hk hresult => ?_, fun h done rest c listed hc => ?_,
    fun h done k rest c others listed results => ?_⟩⟩
  · rintro ⟨serving, place⟩
    rcases none with off | full
    · simp [off] at serving
    · exact absurd place (Nat.not_lt.mpr full)
  · exact exec_stagingGrant_of_claim serving place (State.topClaim_of_ready request ready)
  · rw [exec_stagingGrant_of_claim serving place (State.topClaim_of_done h done)]
    have completion : s.slotCompletion i = {
        kind := kind.request.code, tag := (s.slot i).tag, station := BitVec.ofNat 8 (k.val + 1), ring := .transfer
        index := (s.slot i).index, status := result.status
        extra := [BitVec.ofNat 8 (s.slot i).attemptCount, BitVec.ofNat 8 (s.slot i).waitCount]
        data := (s.slot i).data.take result.dataLength } := by
      simp only [State.slotCompletion, hkind, hk, hresult, Option.map_some, Option.getD_some]
      rfl
    rw [State.grant, State.grantSlot, completion]
    cases kind <;> rfl
  · rw [exec_stagingGrant_of_claim serving place (State.topClaim_of_listed h done listed)]
    simp only [State.grant, State.grantTransfer, hc, listed, List.tail_cons]
    rfl
  · rw [exec_stagingGrant_of_claim serving place (State.topClaim_of_listed h done listed)]
    simp only [State.grant, State.grantTransfer, results, listed, List.tail_cons]
    rfl

/-! ### Events (R49, R85, R96, R136) -/

theorem andBytes_xorBytes_eq (image last mask : List Byte) : andBytes (xorBytes image last) mask
    = (image.zip (last.zip mask)).map fun x => (x.1 ^^^ x.2.1) &&& x.2.2 := by
  induction image generalizing last mask with
  | nil => rfl
  | cons a image ih =>
    cases last with
    | nil => rfl
    | cons b last =>
      cases mask with
      | nil => rfl
      | cons c mask => exact congrArg (List.cons ((a ^^^ b) &&& c)) (ih last mask)

/-- R85: the net change count counts, byte by byte, the watched bits that differ. -/
theorem Station.netChange_eq (e : Station) :
    e.netChange = ((e.inputImage.zip (e.lastReported.zip e.watchMask)).map fun x =>
      ((List.range 8).filter fun i => (x.1.getLsbD i ^^ x.2.1.getLsbD i) && x.2.2.getLsbD i).length).sum := by
  simp only [Station.netChange, andBytes_xorBytes_eq, List.map_map, Function.comp_def, popCount, BitVec.getLsbD_and,
    BitVec.getLsbD_xor]

/-- Settles O13: SAFE, FAULT, the state reports and the change reports, each where none before it is pending. -/
theorem grantsServeEventsInOrder : Obligations.GrantsServeEventsInOrder := by
  refine ⟨Station.netChange_eq, fun s serving place h done list => ?_⟩
  have top := State.topClaim_of_no_completion h done list
  refine ⟨fun safe => ?_, fun noSafe fault => ?_, fun noSafe noFault => ⟨fun k first => ?_, fun none =>
    ⟨fun k first => ?_, fun noChange => ?_⟩⟩⟩
  · rw [exec_stagingGrant_of_claim serving place (top.trans (if_pos safe))]
    rfl
  · have row := exec_stagingGrant_of_claim serving place
      (top.trans ((if_neg (by simp [noSafe])).trans (if_pos fault)))
    rw [row]
    refine ⟨fun carried => ?_, fun kind station i e sound carried at_i hkind hstation => ?_, fun e i carried => ?_⟩
    · simp only [State.grant, State.grantFault, FaultList.eventFields, carried]
      rfl
    · have position := FaultList.position_of_getElem sound.2.1 at_i
      subst hkind hstation
      simp only [State.grant, State.grantFault, FaultList.eventFields, carried, position, at_i]
      rfl
    · simp only [State.grant, State.grantFault, FaultList.eventFields, carried]
      rfl
  all_goals rw [if_neg (by simp [noSafe]), if_neg (by simp [noFault])] at top
  · have reported : s.firstStateReport = some k := find?_allStations_of_isFirst first
    rw [exec_stagingGrant_of_claim serving place (top.trans (by rw [reported]; rfl))]
    rfl
  all_goals
    have noReport : s.firstStateReport = .none := List.find?_eq_none.mpr fun j _ => by simp [none j]
    rw [noReport] at top
  · have changed : s.firstChange = some k := find?_allStations_of_isFirst first
    rw [exec_stagingGrant_of_claim serving place (top.trans (by rw [changed]; rfl))]
    rfl
  · have quiet : s.firstChange = .none := List.find?_eq_none.mpr fun j _ => by simp [noChange j]
    refine congrArg Host.Outcome.next ((State.onGrant_of_place serving place).trans ?_)
    rw [top, quiet]
    rfl

end Sys2Proof.Machine
end

section
/-! The 64 bytes of a completion record (chapter Record Formats and Codes). -/

namespace Sys2Proof.Machine

theorem padTo_of_le {n : Nat} {bytes : List Byte} (h : bytes.length ≤ n) :
    padTo n bytes = bytes ++ List.replicate (n - bytes.length) 0 := by
  rw [padTo, List.take_of_length_le h]

theorem length_padTo {n : Nat} {bytes : List Byte} (h : bytes.length ≤ n) : (padTo n bytes).length = n := by
  rw [padTo_of_le h, List.length_append, List.length_replicate]
  omega

/-- The first 20 bytes of a record, before the extra field. -/
def CompletionRecord.header (r : CompletionRecord) (phase : Bool) : List Byte :=
  [(if r.event then 2 else 1) ||| flagBit phase 7, r.kind]
    ++ halfBytes r.tag
    ++ [r.status.classCode, r.status.detailCode, r.station, byteOf r.data.length]
    ++ halfBytes (BitVec.ofNat 16 (r.index % 1024) ||| (if r.fromTransfer then 0x8000 else 0))
    ++ halfBytes (BitVec.ofNat 16 r.controlHead)
    ++ halfBytes (BitVec.ofNat 16 r.transferHead)
    ++ halfBytes r.count
    ++ wordBytes r.cycle

theorem CompletionRecord.bytes_eq_header (r : CompletionRecord) (phase : Bool) :
    r.bytes phase = r.header phase ++ (padTo 12 r.extra ++ padTo 32 r.data) :=
  List.append_assoc ..

theorem CompletionRecord.length_header (r : CompletionRecord) (phase : Bool) : (r.header phase).length = 20 := rfl

/-- What stands in the first 20 bytes is read there. -/
theorem CompletionRecord.take_drop_bytes (r : CompletionRecord) (phase : Bool) {i n : Nat} (h : i + n ≤ 20) :
    ((r.bytes phase).drop i).take n = ((r.header phase).drop i).take n := by
  have length := r.length_header phase
  rw [r.bytes_eq_header, List.drop_append_of_le_length (by omega), List.take_append_of_le_length]
  rw [List.length_drop]
  omega

/-- The source and the phase in byte 0. -/
theorem sourceByte_toNat (event phase : Bool) : ((if event then 2 else 1) ||| flagBit phase 7 : Byte).toNat
    = (if event then 2 else 1) + (if phase then 128 else 0) := by
  cases event <;> cases phase <;> decide

/-- The ring and the entry index in bytes 8 and 9. -/
theorem indexField_toNat (index : Nat) (fromTransfer : Bool) :
    (BitVec.ofNat 16 (index % 1024) ||| (if fromTransfer then 0x8000 else 0)).toNat
      = index % 1024 + (if fromTransfer then 32768 else 0) := by
  have small : index % 1024 < 2 ^ 15 := by omega
  have inHalf : index % 1024 % 2 ^ 16 = index % 1024 := by omega
  cases fromTransfer with
  | false =>
    exact (congrArg BitVec.toNat BitVec.or_zero).trans ((BitVec.toNat_ofNat ..).trans inHalf)
  | true =>
    have := Nat.two_pow_add_eq_or_of_lt small 1
    simp only [if_true, BitVec.toNat_or, BitVec.toNat_ofNat, inHalf]
    rw [Nat.or_comm, Nat.add_comm]
    exact this.symm

/-- Settles O14: the header field by field, then the two padded fields. -/
theorem completionRecordBytes : Obligations.CompletionRecordBytes := by
  intro r phase extra data controlHead transferHead b at'
  have split : b = _ := r.bytes_eq_header phase
  have header {i n : Nat} (h : i + n ≤ 20) : at' i n = _ := congrArg littleEndian (r.take_drop_bytes phase h)
  have half {n : Nat} (h : n < 65536) : (BitVec.ofNat 16 n).toNat = n := Nat.mod_eq_of_lt h
  have rest : b.drop 20 = padTo 12 r.extra ++ padTo 32 r.data := by
    rw [split]
    exact List.drop_left' (r.length_header phase)
  refine ⟨?_, ?_, ?_, ?_, ?_, ?_, ?_, ?_, ?_, ?_, ?_, ?_, ?_, ?_, ?_⟩
  · rw [split, List.length_append, List.length_append, length_padTo extra, length_padTo data]
    rfl
  · exact (header (by omega)).trans ((littleEndian_one _).trans (sourceByte_toNat ..))
  · rfl
  · exact (header (by omega)).trans (littleEndian_halfBytes r.tag)
  · refine (header (by omega)).trans ((littleEndian_one _).trans ?_)
    cases r.status <;> rfl
  · refine (header (by omega)).trans ((littleEndian_one _).trans ?_)
    cases r.status with
    | ok => rfl
    | rejected d => cases d <;> rfl
    | station d => cases d <;> rfl
    | link d => cases d <;> rfl
    | ended d => cases d <;> rfl
  · rfl
  · exact (header (by omega)).trans ((littleEndian_one _).trans (Nat.mod_eq_of_lt (by omega)))
  · exact (header (by omega)).trans ((littleEndian_halfBytes _).trans (indexField_toNat ..))
  · exact (header (by omega)).trans ((littleEndian_halfBytes _).trans (half controlHead))
  · exact (header (by omega)).trans ((littleEndian_halfBytes _).trans (half transferHead))
  · exact (header (by omega)).trans (littleEndian_halfBytes r.count)
  · exact (header (by omega)).trans (littleEndian_wordBytes r.cycle)
  · rw [rest, List.take_left' (length_padTo extra), padTo_of_le extra]
  · calc b.drop 32 = (b.drop 20).drop 12 := by rw [List.drop_drop]
      _ = padTo 32 r.data := by rw [rest, List.drop_left' (length_padTo extra)]
      _ = _ := padTo_of_le data

end Sys2Proof.Machine
end

section
/-! Posting, the interrupt and HALTED (R180 to R187): the post of the oldest staged record, the age timer, and an
error response on the master port. -/

namespace Sys2Proof.Machine

/-! ### Posting (R173, R180, R181) -/

theorem HostQueue.ringFull_iff {h : HostQueue} {a : RingAttachment} (attached : h.attachment = some a) :
    h.ringFull = true ↔ (h.completionTail + 1) % a.completion.count = h.completionHead := by
  simp only [HostQueue.ringFull, attached]
  exact decide_eq_true_iff

theorem State.postReady_iff {s : State} {a : RingAttachment} (attached : s.hqi.attachment = some a) :
    s.postReady = true ↔ s.sc.engine.serving = true ∧ s.hqi.post = none ∧ s.hqi.staging ≠ []
      ∧ (s.hqi.completionTail + 1) % a.completion.count ≠ s.hqi.completionHead := by
  rw [ne_eq, ne_eq, ← HostQueue.ringFull_iff attached]
  simp [State.postReady, and_assoc]

/-- Settles O15. -/
theorem postStartsAtCompletionTail : Obligations.PostStartsAtCompletionTail := by
  intro s a attached
  have ready := State.postReady_iff attached
  refine ⟨fun r rest serving post fetch staging room => congrArg Host.Outcome.next ?_,
    fun waits => congrArg Host.Outcome.next (if_neg ?_)⟩
  · have go : s.postReady = true ∧ s.hqi.fetch = none :=
      ⟨ready.mpr ⟨serving, post, by rw [staging]; exact List.cons_ne_nil _ _, room⟩, fetch⟩
    simp only [State.onPostStart, if_pos go, staging, attached]
  · rintro ⟨isReady, fetch⟩
    obtain ⟨serving, post, staged, room⟩ := ready.mp isReady
    simp [serving, post, staged, room, fetch] at waits

/-- R185: the age timer at a post, by whether the ring held no unread record and by the delay. -/
theorem HostQueue.posted_eq (count : Nat) (h : HostQueue) : h.posted count = { h with
    post := none
    staging := h.staging.tail
    completionTail := (h.completionTail + 1) % count
    phase := if (h.completionTail + 1) % count = 0 then !h.phase else h.phase
    ageTimer := if h.unread = 0 then (if h.delay = 0 then none else some h.delay) else h.ageTimer
    delayReached := if h.unread = 0 then decide (h.delay = 0) else h.delayReached } := by
  unfold HostQueue.posted HostQueue.startAge
  by_cases empty : h.unread = 0
  · by_cases now : h.delay = 0
    all_goals
      simp only [empty, now, if_true, if_false, decide_true, decide_false]
      rfl
  · simp only [empty, if_false]
    rfl

/-- Settles O16: the ring moves on in one way, and then each owner is told in its own. -/
theorem postEndAdvancesAndTellsOwner : Obligations.PostEndAdvancesAndTellsOwner := by
  intro s a r rest attached serving post staging tail empty posted
  have ring : s.hqi.posted a.completion.count = posted.hqi := by rw [HostQueue.posted_eq, staging]; rfl
  have row : exec .postEnd s = .next (posted.tellPosted r.owner) := by
    refine congrArg Host.Outcome.next ?_
    simp only [State.onPostEnd, if_pos (And.intro serving (Option.isSome_iff_ne_none.mpr post)), staging, attached, ring]
    rfl
  refine ⟨fun owner => ?_, fun owner => ?_, fun owner => ?_, fun k owner => ?_, fun k owner => ?_⟩
  all_goals
    rw [row, owner]
    rfl

/-! ### The interrupt (R184, R185) -/

/-- Settles O17. -/
theorem ageExpiryAssertsInterrupt : Obligations.AgeExpiryAssertsInterrupt := by
  refine ⟨fun s timer unread => ?_, fun s idle => congrArg Host.Outcome.next (if_neg ?_), fun s => ?_⟩
  · have pending : State.intPending { s with hqi := { s.hqi with ageTimer := none, delayReached := true } } = true := by
      rw [State.intPending_eq, decide_eq_true_eq]
      exact .inr (.inr ⟨unread, rfl⟩)
    exact ⟨_, congrArg Host.Outcome.next (if_pos ⟨timer, unread⟩), rfl, pending, by rw [State.int, pending]; rfl⟩
  · rintro ⟨timer, unread⟩
    exact idle.elim (· timer) fun none => by omega
  · rw [State.int, State.intPending_eq, Bool.and_eq_true, decide_eq_true_eq, and_comm]

/-! ### HALTED (R158, R159, R187) -/

/-- R158: a fetch in flight is the one that ends, and otherwise a post. -/
theorem State.onPortError_of_inFlight {s : State} (serving : s.sc.engine.serving = true)
    (inFlight : s.hqi.fetch ≠ none ∨ s.hqi.post ≠ none) :
    s.onPortError = s.halt (if s.hqi.fetch = none then .postError else .fetchError) := by
  rw [State.onPortError, if_pos serving]
  cases fetch : s.hqi.fetch with
  | some f => rfl
  | none =>
    have post : s.hqi.post.isSome = true := Option.isSome_iff_ne_none.mpr (inFlight.resolve_left (· fetch))
    exact (if_neg (by simp)).trans (if_pos post)

theorem State.int_of_halted {s : State} (h : s.sc.engine = .halted) : s.int = s.hqi.intEnable := by
  rw [State.int, State.intPending_eq, decide_eq_true (.inl h), Bool.true_and]

/-- Settles O18: in OFF the error ends the descriptor read, and elsewhere the fetch or the post in flight. -/
theorem masterPortErrorHalts : Obligations.MasterPortErrorHalts := by
  refine ⟨fun s off => congrArg Host.Outcome.next (if_neg (by rw [off]; decide)), fun s serving =>
    ⟨fun fetch post => ?_, fun inFlight => ⟨_, congrArg Host.Outcome.next
      (State.onPortError_of_inFlight serving inFlight), rfl, State.int_of_halted rfl, rfl⟩⟩⟩
  refine congrArg Host.Outcome.next ((if_pos serving).trans ?_)
  rw [fetch, post]
  rfl

end Sys2Proof.Machine
end

section
/-! Control requests (R146, R147, R151 to R156, R43 to R45, R94): the gate by engine state, stop and close, a
removal, and RESUME. -/

namespace Sys2Proof.Machine

/-! ### The gate (R147) -/

/-- R147: the states of each row of the gate are those in which its kind is taken. -/
theorem RequestKind.takenIn_eq_false_of_gate (e : EngineState) : ∀ row ∈ ([(.openSession, [.idle]),
      (.startCycles, [.config]), (.stopCycles, [.run]), (.closeSession, [.config, .run]),
      (.configureStation, [.config, .run]), (.removeStation, [.config, .run]), (.readStation, [.config, .run]),
      (.readStats, [.config, .run]), (.abort, [.config, .run]), (.ackFault, [.idle, .config, .run]),
      (.readFaults, [.idle, .config, .run]), (.resume, [.idle, .config, .run])] :
      List (RequestKind × List EngineState)), e ∉ row.2 → row.1.takenIn e = false := by
  cases e <;> decide

/-- Settles O19: each row of the gate refuses its kind in the other states. -/
theorem controlRequestsGatedByEngine : Obligations.ControlRequestsGatedByEngine := by
  intro s q row hrow happ outside
  have closed := RequestKind.takenIn_eq_false_of_gate s.sc.engine (row.1, row.2.2)
  simp only [List.mem_cons, List.not_mem_nil, or_false] at hrow
  rcases hrow with rfl | rfl | rfl | rfl | rfl | rfl | rfl | rfl | rfl | rfl | rfl | rfl
  all_goals
    dsimp only
    exact congrArg Host.Outcome.next (State.applyControl_refused _ happ (closed (by simp) outside))

/-! ### Stop and close (R151 to R156) -/

/-- R151, R154: a request that waits leaves the teardown begun. -/
theorem State.beginTeardown_deferControl {s : State} {q : ControlRequest} (request : s.sc.request = some q)
    (t : Teardown) (e : EndingCode) (engine : EngineState) :
    (s.beginTeardown t e engine).deferControl = (s.beginTeardown t e engine).controlWaiting q :=
  State.deferControl_of_request request

/-- Settles O22: the teardown begins, and the request is deferred. -/
theorem stopAndCloseWaitForLine : Obligations.StopAndCloseWaitForLine := by
  intro s q busy
  refine ⟨fun happ run => ?_, fun happ taken => ?_⟩
  · have applied : exec .stopCycles s = .next (s.onStopCycles q.record) :=
      congrArg Host.Outcome.next (State.applyControl_of_applies _ happ (by rw [run]; rfl))
    rw [applied, State.onStopCycles, if_neg busy, State.beginTeardown_deferControl happ.1, ← run]
    rfl
  · have applied : exec .closeSession s = .next (s.onCloseSession q.record) :=
      congrArg Host.Outcome.next (State.applyControl_of_applies _ happ
        (RequestKind.takenIn_config_run (by decide) taken))
    rw [applied, State.onCloseSession, if_neg busy, State.beginTeardown_deferControl happ.1]
    rfl

/-- A teardown that begins leaves the slots and the FIFOs alone. -/
theorem State.beginTeardown_fifosMatch {s : State} (h : s.tt.FifosMatch) (t : Teardown) (e : EndingCode)
    (engine : EngineState) : (s.beginTeardown t e engine).tt.FifosMatch :=
  ⟨h.nodup, h.station, h.waiting⟩

theorem State.lineClear_of_waiting {s : State} {q : ControlRequest} (request : s.sc.request = some q)
    (stage : q.stage = .waiting true) : s.lineClear = true := by
  obtain ⟨record, index, _⟩ := q
  cases stage
  simp only [State.lineClear, request]

/-- Settles O23: both ways come to one application. -/
theorem stopAppliedResetsTheCycle : Obligations.StopAppliedResetsTheCycle := by
  rintro s q c sound (⟨rfl, happ, run, clear⟩ | ⟨rfl, request, stage, teardown⟩)
  · have applied : exec .stopCycles s = .next (s.onStopCycles q.record) :=
      congrArg Host.Outcome.next (State.applyControl_of_applies _ happ (by rw [run]; rfl))
    obtain ⟨t, ht, spec⟩ := State.applyStop_spec (s.beginTeardown .stop .cyclesStopped .run) q happ.1
      (State.beginTeardown_fifosMatch sound.fifosMatch ..)
    exact ⟨t, applied.trans (congrArg Host.Outcome.next ((if_pos clear).trans ht)), spec⟩
  · obtain ⟨t, ht, spec⟩ := s.applyStop_spec q request sound.fifosMatch
    exact ⟨t, congrArg Host.Outcome.next
      ((if_pos ⟨teardown, State.lineClear_of_waiting request stage⟩).trans ht), spec⟩

/-! ### Removal (R43 to R45) -/

/-- R45: the removal as it is applied, with its answer. -/
theorem State.removeStation_answered {s : State} {q : ControlRequest} (k : StationId) (sound : s.SlotsSound)
    (request : s.sc.request = some q) : ∃ tt, TransactionTable.EndsWaiting s.tt tt [k] (.station .removed)
      ∧ (s.removeStation k).answer .ok = State.controlAnswered
        { s.withStation k ((s.station k).confirmEnded (.station .removed)).vacate.emptied with
          tt := tt
          fl := s.fl.endCauses (stationCauses k)
          hqi := { s.hqi with readyList := s.hqi.readyList ++ s.confirmEntries [k] } } q .ok [] [] := by
  obtain ⟨tt, ends, removed⟩ := s.removeStation_spec k sound.fifosMatch
  have same : (s.removeStation k).sc.request = some q := by rw [removed]; exact request
  exact ⟨tt, ends, by rw [State.answer_of_request same, removed]⟩

/-- Settles O26: by the entry and by the exchange in hand; both ways come to one removal. -/
theorem removalWaitsOrApplies : Obligations.RemovalWaitsOrApplies := by
  intro s q k address
  have station : q.record.station = some k := (q.record.station_eq_some_iff k).mpr address
  have taken (happ : s.Applies .removeStation q) (engine : s.sc.engine ∈ [.config, .run]) :
      exec .removeStation s = .next (s.onRemoveStation q.record) :=
    congrArg Host.Outcome.next (State.applyControl_of_applies _ happ
      (RequestKind.takenIn_config_run (by decide) engine))
  refine ⟨fun happ engine => ⟨fun unused => ?_, fun used busy => ?_⟩, fun c sound ways => ?_⟩
  · rw [taken happ engine, State.onRemoveStation, station]
    refine congrArg Host.Outcome.next ((if_pos (by simp [Station.configured, unused])).trans ?_)
    exact State.answer_of_request happ.1 _
  · rw [taken happ engine, State.onRemoveStation, station]
    refine congrArg Host.Outcome.next ((if_neg (by simp [Station.configured, used])).trans ((if_neg busy).trans ?_))
    exact State.deferControl_of_request (q := q) happ.1
  · have applied : s.sc.request = some q ∧ exec c s = .next ((s.removeStation k).answer .ok) := by
      rcases ways with ⟨rfl, happ, engine, used, clear⟩ | ⟨rfl, request, stage, check, kind⟩
      · rw [taken happ engine, State.onRemoveStation, station]
        exact ⟨happ.1, congrArg Host.Outcome.next
          ((if_neg (by simp [Station.configured, used])).trans (if_pos clear))⟩
      · have due : s.removalDue = some k := by
          simp only [State.removalDue, request]
          exact (if_pos ⟨stage, by simp [Record.isValid, check, kind]⟩).trans station
        refine ⟨request, congrArg Host.Outcome.next ?_⟩
        rw [due]
    obtain ⟨tt, ends, removed⟩ := State.removeStation_answered k sound applied.1
    exact ⟨_, applied.2.trans (congrArg Host.Outcome.next removed), rfl, ends,
      by rw [← Station.emptied_vacate_confirmEnded]; rfl⟩

/-! ### RESUME (R94) -/

/-- Settles O32. -/
theorem resumeLeavesSafe : Obligations.ResumeLeavesSafe := by
  intro s q happ
  refine ⟨fun clear => ?_, fun safe engine => ?_⟩
  · refine congrArg Host.Outcome.next ?_
    cases taken : RequestKind.resume.takenIn s.sc.engine with
    | false => exact State.applyControl_refused _ happ taken
    | true =>
      refine (State.applyControl_of_applies _ happ taken).trans ((if_neg (by simp [clear])).trans ?_)
      exact State.answer_of_request happ.1 _
  · refine congrArg Host.Outcome.next ((State.applyControl_of_applies _ happ
      (RequestKind.takenIn_idle_config_run (by decide) engine)).trans ((if_pos safe).trans ?_))
    have request : ({ s.clearSafe with hm := s.clearSafe.hm.load } : State).sc.request = some q := happ.1
    exact State.answer_of_request request _

end Sys2Proof.Machine
end

section
/-! Acknowledgement of faults and the fault list at a close (R129 to R131, R140, R156). -/

namespace Sys2Proof.Machine

/-! ### The pair an ACK_FAULT names (R129) -/

theorem FaultKind.ofCode_eq_some_iff (k : FaultKind) (n : Nat) : FaultKind.ofCode n = some k ↔ n = k.code.toNat := by
  constructor
  · intro h
    unfold FaultKind.ofCode at h
    split at h <;> cases h <;> rfl
  · rintro rfl
    cases k <;> rfl

/-- R129: the stations a kind may be named with. -/
theorem FaultKind.station_ok_iff (k : FaultKind) (station : Nat) :
    ((k.isStationKind && inRange 1 31 station) || (!k.isStationKind && station = 0)) = true
      ↔ (k.code.toNat ∈ [1, 2, 3] ∧ 1 ≤ station ∧ station ≤ 31) ∨ (k.code.toNat ∈ [4, 5, 6] ∧ station = 0) := by
  cases k <;> simp [FaultKind.isStationKind, FaultKind.code, inRange]

theorem Record.faultPair_of_code {r : Record} {k : FaultKind} (code : r[8].toNat = k.code.toNat) :
    r.faultPair = if (k.code.toNat ∈ [1, 2, 3] ∧ 1 ≤ r[9].toNat ∧ r[9].toNat ≤ 31)
      ∨ (k.code.toNat ∈ [4, 5, 6] ∧ r[9].toNat = 0) then some (k, r[9].toNat) else none := by
  have kind : FaultKind.ofCode r.faultSelector = some k := (k.ofCode_eq_some_iff _).mpr code
  have ok := k.station_ok_iff r[9].toNat
  simp only [Record.faultPair, kind]
  exact ite_congr (propext ok) (fun _ => rfl) (fun _ => rfl)

section
variable {r : Record}

theorem Record.faultPair_of_pair (pair : (r[8].toNat ∈ [1, 2, 3] ∧ 1 ≤ r[9].toNat ∧ r[9].toNat ≤ 31)
      ∨ (r[8].toNat ∈ [4, 5, 6] ∧ r[9].toNat = 0)) :
    ∃ k, r[8].toNat = k.code.toNat ∧ r.faultPair = some (k, r[9].toNat) := by
  have named : ∃ k, FaultKind.ofCode r[8].toNat = some k := by
    have code : r[8].toNat ∈ [1, 2, 3, 4, 5, 6] := by
      simp only [List.mem_cons, List.not_mem_nil, or_false] at pair ⊢
      omega
    simp only [List.mem_cons, List.not_mem_nil, or_false] at code
    rcases code with h | h | h | h | h | h
    all_goals exact ⟨_, by rw [h]; rfl⟩
  obtain ⟨k, hk⟩ := named
  have code := (k.ofCode_eq_some_iff _).mp hk
  exact ⟨k, code, (Record.faultPair_of_code code).trans (if_pos (code ▸ pair))⟩

theorem Record.faultPair_of_not_pair (pair : ¬ ((r[8].toNat ∈ [1, 2, 3] ∧ 1 ≤ r[9].toNat ∧ r[9].toNat ≤ 31)
      ∨ (r[8].toNat ∈ [4, 5, 6] ∧ r[9].toNat = 0))) : r.faultPair = none := by
  cases kind : FaultKind.ofCode r.faultSelector with
  | none => simp only [Record.faultPair, kind]
  | some k =>
    have code : r[8].toNat = k.code.toNat := (k.ofCode_eq_some_iff _).mp kind
    exact (Record.faultPair_of_code code).trans (if_neg (code ▸ pair))

end

/-! ### The acknowledgement (R130, R131) -/

theorem FaultEntry.isFor_iff_code (e : FaultEntry) (k : FaultKind) (station : Nat) :
    e.isFor k station = true ↔ e.kind.code.toNat = k.code.toNat ∧ e.station = station := by
  have code : e.kind = k ↔ e.kind.code.toNat = k.code.toNat := by
    cases e.kind <;> cases k <;> decide
  rw [← code]
  simp [FaultEntry.isFor]

theorem ackWalk_isEmpty_iff (l : List FaultEntry) :
    (ackWalk l 0).2.isEmpty = l.all (fun e => !e.ended && e.acknowledged) := by
  have length := ackWalk_length l 0
  rw [Bool.eq_iff_iff, List.isEmpty_iff, ← List.length_eq_zero_iff, length, List.length_eq_zero_iff,
    List.filter_eq_nil_iff, List.all_eq_true]
  refine forall₂_congr fun e _ => ?_
  cases e.ended <;> cases e.acknowledged <;> decide

theorem ackWalk_of_all {l : List FaultEntry} (h : ∀ e ∈ l, e.ended = false ∧ e.acknowledged = true) :
    ∀ p, ackWalk l p = (l, []) := by
  induction l with
  | nil => exact fun _ => rfl
  | cons e rest ih =>
    intro p
    obtain ⟨active, acknowledged⟩ := h e List.mem_cons_self
    simp only [ackWalk, active, acknowledged, ih (fun x hx => h x (List.mem_cons_of_mem _ hx)), if_true,
      Bool.false_eq_true, if_false]

/-- R131: with nothing to acknowledge the list stays as it stood. -/
theorem FaultList.acknowledgeAll_of_all {f : FaultList}
    (h : f.entries.all (fun e => !e.ended && e.acknowledged) = true) : f.acknowledgeAll.1 = f := by
  have none : ackWalk f.entries 0 = (f.entries, []) := ackWalk_of_all (by simpa using h) 0
  simp only [FaultList.acknowledgeAll, none]
  rfl

/-- Settles O30: the pair by the entry it names, and ALL by the walk over the list. -/
theorem ackFaultOneOrAll : Obligations.AckFaultOneOrAll := by
  intro s q happ engine kind station names answered pair
  have applied : exec .ackFault s = .next (s.onAckFault q.record) :=
    congrArg Host.Outcome.next (State.applyControl_of_applies _ happ
      (RequestKind.takenIn_idle_config_run (by decide) engine))
  have answer (f : FaultList) (a b : Nat) :
      Host.Outcome.next (State.completeControl .ok [byteOf a, byteOf b] [] { s with fl := f }) = answered f a b :=
    congrArg Host.Outcome.next (State.completeControl_of_request (s := { s with fl := f }) happ.1 ..)
  have one (h : pair) : kind ≠ 0xFF := by
    simp only [pair, List.mem_cons, List.not_mem_nil, or_false] at h
    omega
  have onPair (h : kind ≠ 0xFF) : s.onAckFault q.record = match q.record.faultPair with
      | none => s.answer (.rejected .badParameter)
      | some (kind, station) => match s.fl.acknowledge kind station with
        | none => s.answer (.rejected .notFound)
        | some a => ({ s with fl := a.1 } : State).completeControl .ok [byteOf a.2.1, byteOf a.2.2] [] :=
    if_neg h
  rw [applied]
  refine ⟨fun notAll notPair => ?_, fun isPair absent => ?_, fun isPair before e after list hbefore he => ?_,
    fun all => ⟨s.fl.acknowledgeAll.1, ?_, ?_⟩⟩
  · rw [onPair notAll, Record.faultPair_of_not_pair notPair]
    exact congrArg Host.Outcome.next (State.answer_of_request happ.1 _)
  · obtain ⟨k, code, named⟩ := Record.faultPair_of_pair isPair
    have missing : s.fl.acknowledge k q.record[9].toNat = none := FaultList.acknowledge_of_not_listed fun x hx => by
      rw [← Bool.not_eq_true, x.isFor_iff_code, ← code]
      exact absent x hx
    rw [onPair (one isPair), named]
    simp only [missing]
    exact congrArg Host.Outcome.next (State.answer_of_request happ.1 _)
  · obtain ⟨k, code, named⟩ := Record.faultPair_of_pair isPair
    have isFor : e.isFor k q.record[9].toNat = true := (e.isFor_iff_code k _).mpr (code ▸ he)
    obtain ⟨hkind, hstation⟩ := FaultEntry.isFor_iff.mp isFor
    have found := FaultList.acknowledge_of_listed list (fun x hx => by
      rw [← Bool.not_eq_true, x.isFor_iff_code, ← code]
      exact hbefore x hx) isFor
    rw [onPair (one isPair), named]
    refine ⟨fun active new => ?_, fun active old => ?_, fun ended => ?_⟩
    · rw [if_neg (by simp [active]), if_neg (by simp [new])] at found
      rw [← hkind, ← hstation] at found ⊢
      simp only [found]
      exact answer _ 1 0
    · rw [if_neg (by simp [active]), if_pos old] at found
      simp only [found]
      exact answer s.fl 0 0
    · rw [if_pos ended] at found
      simp only [found]
      exact answer _ 1 1
  · have row : s.onAckFault q.record = _ := if_pos all
    rw [row]
    exact answer ..
  · obtain ⟨entries, overflow, inStaging, changes, pending, carried⟩ := s.fl.acknowledgeAll_spec
    rw [ackWalk_isEmpty_iff] at pending
    refine ⟨entries, overflow, inStaging, FaultList.acknowledgeAll_of_all, fun some => ?_, changes,
      fun before e after list last => ?_⟩
    · rw [pending, some]
      rfl
    · have walk := ackWalk_last before e after last 0
      rw [← list] at walk
      refine ⟨fun active new => ?_, fun ended => ?_⟩
      · rw [carried, walk.1 active new]
        rfl
      · rw [carried, walk.2 ended, Nat.zero_add]
        rfl

/-! ### A close (R140, R156) -/

theorem endWalk_isEmpty_iff (l : List FaultEntry) :
    (!(endWalk l 0).2.isEmpty) = l.any (fun e => !e.ended) := by
  have length := endWalk_length l 0
  rw [Bool.eq_iff_iff, Bool.not_eq_true', ← Bool.not_eq_true, List.isEmpty_iff, ← List.length_eq_zero_iff, length,
    List.length_eq_zero_iff, List.filter_eq_nil_iff, List.any_eq_true]
  simp

theorem endWalk_of_ended {l : List FaultEntry} (h : ∀ e ∈ l, e.ended = true) : (endWalk l 0).2 = [] := by
  refine List.eq_nil_of_length_eq_zero ((endWalk_length l 0).trans ?_)
  rw [List.length_eq_zero_iff, List.filter_eq_nil_iff]
  exact fun e he => by simp [h e he]

/-- R140: what a close makes of the list, and which change it carries last. -/
theorem FaultList.endAll_changes (f : FaultList) :
    let stays := fun e : FaultEntry => e.ended || !e.acknowledged
    f.endAll.entries = (f.entries.filter stays).map (fun e => { e with ended := true })
    ∧ f.endAll.overflow = f.overflow ∧ f.endAll.inStaging = f.inStaging
    ∧ f.endAll.changes.toNat = min (f.changes.toNat + (f.entries.filter (fun e => !e.ended)).length) 65535
    ∧ f.endAll.pending = (f.pending || (f.entries.any (fun e => !e.ended) && !f.inStaging))
    ∧ ((∀ e ∈ f.entries, e.ended = true) → f.endAll.carried = f.carried)
    ∧ ∀ before e after, f.entries = before ++ e :: after → (∀ x ∈ after, x.ended = true) → e.ended = false →
      (e.acknowledged = false → f.endAll.carried = .entry e.kind e.station)
      ∧ (e.acknowledged = true →
        f.endAll.carried = .removed { e with ended := true } (before.filter stays).length) := by
  obtain ⟨entries, overflow, inStaging, changes, pending, carried⟩ := f.endAll_spec
  rw [endWalk_isEmpty_iff] at pending
  refine ⟨entries, overflow, inStaging, changes, pending, fun ended => ?_, fun before e after list last active => ?_⟩
  · rw [carried, endWalk_of_ended ended]
    rfl
  · have walk := endWalk_last before e after last active 0
    rw [← list] at walk
    refine ⟨fun new => ?_, fun old => ?_⟩
    · rw [carried, walk.1 new]
      rfl
    · rw [carried, walk.2 old, Nat.zero_add]
      rfl

/-- Settles O24: both ways come to one application. -/
theorem closeAppliedVacatesStations : Obligations.CloseAppliedVacatesStations := by
  rintro s q c sound (⟨rfl, happ, taken, clear⟩ | ⟨rfl, request, stage, teardown⟩)
  · have applied : exec .closeSession s = .next (s.onCloseSession q.record) :=
      congrArg Host.Outcome.next (State.applyControl_of_applies _ happ
        (RequestKind.takenIn_config_run (by decide) taken))
    obtain ⟨t, ht, sc, cs, hm, lc, fl, tt, events, stations, rest⟩ := State.applyClose_spec
      (s.beginTeardown .close .sessionClosed .closing) q happ.1 (State.beginTeardown_fifosMatch sound.fifosMatch ..)
    simp only [Station.vacate_confirmEnded] at stations
    exact ⟨t, applied.trans (congrArg Host.Outcome.next ((if_pos clear).trans ht)), sc, cs, hm, lc, by rw [lc]; rfl,
      by rw [fl]; exact FaultList.endAll_changes _, tt, events, stations, rest⟩
  · obtain ⟨t, ht, sc, cs, hm, lc, fl, tt, events, stations, rest⟩ := s.applyClose_spec q request sound.fifosMatch
    simp only [Station.vacate_confirmEnded] at stations
    exact ⟨t, congrArg Host.Outcome.next ((if_pos ⟨teardown, State.lineClear_of_waiting request stage⟩).trans ht),
      sc, cs, hm, lc, by rw [lc]; rfl, by rw [fl]; exact FaultList.endAll_changes _, tt, events, stations, rest⟩

end Sys2Proof.Machine
end

section
/-! Transfer requests (R75 to R82, R89, R90, R99, R100): the checks each begins with, and what an accepted one
does. -/

namespace Sys2Proof.Machine

/-! ### The first checks -/

section
variable {s : State} {k : StationId}

theorem State.imageCheck_of_closed (closed : s.sc.engine ∉ [EngineState.config, .run]) :
    s.imageCheck k = some (.rejected .badState) := by
  refine if_pos ?_
  simpa using closed

theorem State.imageCheck_of_open (taken : s.sc.engine ∈ [EngineState.config, .run]) : s.imageCheck k =
    if (s.station k).state = .unused then some (.rejected .notConfigured)
    else if (s.station k).removePending = true then some (.station .notActive) else none := by
  have open' : ¬ (s.sc.engine ≠ .config ∧ s.sc.engine ≠ .run) := by simpa [or_iff_not_imp_left] using taken
  simp only [State.imageCheck, if_neg open', Station.configured]
  by_cases h : (s.station k).state = .unused <;> simp [h]

theorem State.remoteCheck_of_closed (kind : RemoteKind) (t : TakenRecord) (closed : s.sc.engine ≠ .run) :
    s.remoteCheck kind t k = some (.rejected .badState) :=
  if_pos closed

theorem State.remoteCheck_of_unused (kind : RemoteKind) (t : TakenRecord) (run : s.sc.engine = .run)
    (unused : (s.station k).state = .unused) : s.remoteCheck kind t k = some (.rejected .notConfigured) :=
  (if_neg (not_not_intro run)).trans (if_pos (by simp [Station.configured, unused]))

theorem State.remoteCheck_of_leaving (kind : RemoteKind) (t : TakenRecord) (run : s.sc.engine = .run)
    (used : (s.station k).state ≠ .unused) (leaving : (s.station k).removePending = true) :
    s.remoteCheck kind t k = some (.station .notActive) :=
  (if_neg (not_not_intro run)).trans ((if_neg (by simp [Station.configured, used])).trans (if_pos leaving))

end

/-- The first three checks, in order, of a request that is taken in some engine states. -/
def TurnsAway (s : State) (k : StationId) (engines : List EngineState) (turned : Status → Prop) : Prop :=
  (s.sc.engine ∉ engines → turned (.rejected .badState))
  ∧ (s.sc.engine ∈ engines → (s.station k).state = .unused → turned (.rejected .notConfigured))
  ∧ (s.sc.engine ∈ engines → (s.station k).state ≠ .unused → (s.station k).removePending = true →
    turned (.station .notActive))

theorem turnsAway_of_imageCheck {s : State} {k : StationId} {turned : Status → Prop}
    (check : ∀ status, s.imageCheck k = some status → turned status) : TurnsAway s k [.config, .run] turned :=
  ⟨fun closed => check _ (State.imageCheck_of_closed closed),
    fun taken unused => check _ ((State.imageCheck_of_open taken).trans (if_pos unused)),
    fun taken used leaving => check _ ((State.imageCheck_of_open taken).trans
      ((if_neg used).trans (if_pos leaving)))⟩

theorem turnsAway_of_remoteCheck {s : State} {k : StationId} {kind : RemoteKind} {t : TakenRecord}
    {turned : Status → Prop} (check : ∀ status, s.remoteCheck kind t k = some status → turned status) :
    TurnsAway s k [.run] turned :=
  ⟨fun closed => check _ (State.remoteCheck_of_closed kind t (by simpa using closed)),
    fun run unused => check _ (State.remoteCheck_of_unused kind t (List.mem_singleton.mp run) unused),
    fun run used leaving => check _ (State.remoteCheck_of_leaving kind t (List.mem_singleton.mp run) used leaving)⟩

/-! ### The requests, by their check -/

section
variable {s : State} {t : TakenRecord} {k : StationId}

/-- The requests that begin with the checks of an image request. -/
def imageRequests : List (RequestKind × Instr) :=
  [(.writeOutputs, .writeOutputs), (.readInputs, .readInputs), (.setWatch, .setWatch)]

/-- The remote requests, with the kind of the slot each fills. -/
def remoteRequests : List (RequestKind × Instr × RemoteKind) :=
  [(.remoteRead, .remoteRead, .read), (.remoteWrite, .remoteWrite, .write),
    (.restartStation, .restartStation, .restart)]

/-- An image request that its first checks turn away. -/
theorem exec_imageRequest_turned (row : RequestKind × Instr) (hrow : row ∈ imageRequests)
    (takes : s.Takes row.1 t) (station : t.record.station = some k) {status : Status}
    (check : s.imageCheck k = some status) : exec row.2 s = .next (s.transferAnswered t status []) := by
  simp only [imageRequests, List.mem_cons, List.not_mem_nil, or_false] at hrow
  rcases hrow with rfl | rfl | rfl
  all_goals
    refine congrArg Host.Outcome.next ((State.applyTransfer_of_takes _ takes).trans ?_)
  · simp only [State.onWriteOutputs, station, check, State.completeTransfer_eq]
  · simp only [State.onReadInputs, station, check, State.completeTransfer_eq]
  · simp only [State.onSetWatch, station, check, State.completeTransfer_eq]

/-- The three remote requests are one operation of the Transaction Table. -/
theorem exec_remoteRequest (row : RequestKind × Instr × RemoteKind) (hrow : row ∈ remoteRequests)
    (takes : s.Takes row.1 t) : exec row.2.1 s = .next (s.onRemote row.2.2 t) := by
  simp only [remoteRequests, List.mem_cons, List.not_mem_nil, or_false] at hrow
  rcases hrow with rfl | rfl | rfl
  all_goals exact congrArg Host.Outcome.next (State.applyTransfer_of_takes _ takes)

/-- A remote request that its checks turn away. -/
theorem exec_remoteRequest_turned (row : RequestKind × Instr × RemoteKind) (hrow : row ∈ remoteRequests)
    (takes : s.Takes row.1 t) (station : t.record.station = some k) {status : Status}
    (check : s.remoteCheck row.2.2 t k = some status) :
    exec row.2.1 s = .next (s.transferAnswered t status []) := by
  rw [exec_remoteRequest row hrow takes]
  simp only [State.onRemote, station, check, State.completeTransfer_eq]

end

/-- Settles O33: the image requests, KEEPALIVE, and the remote requests. -/
theorem transferRequestsTurnedAway : Obligations.TransferRequestsTurnedAway := by
  intro s t k row hrow takes address turned
  have station (h : row.1 ≠ .keepalive) : t.record.station = some k :=
    (t.record.station_eq_some_iff k).mpr (address h)
  have image (p : RequestKind × Instr) (hp : p ∈ imageRequests) (h : row = (p.1, p.2, [.config, .run]))
      (named : row.1 ≠ .keepalive) : TurnsAway s k row.2.2 turned := by
    subst h
    exact turnsAway_of_imageCheck fun _ => exec_imageRequest_turned p hp takes (station named)
  have remote (p : RequestKind × Instr × RemoteKind) (hp : p ∈ remoteRequests) (h : row = (p.1, p.2.1, [.run]))
      (named : row.1 ≠ .keepalive) : TurnsAway s k row.2.2 turned := by
    subst h
    exact turnsAway_of_remoteCheck fun _ => exec_remoteRequest_turned p hp takes (station named)
  have away : row.1 ≠ .keepalive → TurnsAway s k row.2.2 turned := by
    intro named
    simp only [List.mem_cons, List.not_mem_nil, or_false] at hrow
    rcases hrow with h | h | h | h | h | h | h
    · exact image (.writeOutputs, .writeOutputs) (by decide) h named
    · exact image (.readInputs, .readInputs) (by decide) h named
    · exact image (.setWatch, .setWatch) (by decide) h named
    · exact absurd (congrArg Prod.fst h) named
    · exact remote (.remoteRead, .remoteRead, .read) (by decide) h named
    · exact remote (.remoteWrite, .remoteWrite, .write) (by decide) h named
    · exact remote (.restartStation, .restartStation, .restart) (by decide) h named
  refine ⟨fun closed => ?_, fun h => (away h).2.1, fun h => (away h).2.2⟩
  by_cases named : row.1 = .keepalive
  · have keepalive : row = (.keepalive, .keepalive, [.config, .run]) := by
      simp only [List.mem_cons, List.not_mem_nil, or_false] at hrow
      rcases hrow with rfl | rfl | rfl | rfl | rfl | rfl | rfl
      case inr.inr.inr.inl => rfl
      all_goals cases named
    subst keepalive
    refine congrArg Host.Outcome.next ((State.applyTransfer_of_takes _ takes).trans (if_neg ?_))
    simpa using closed
  · exact (away named).1 closed

/-! ### WRITE_OUTPUTS (R75 to R77) -/

/-- R89: a refresh restarts a timer that runs. -/
theorem HoldMonitor.refresh_eq (h : HoldMonitor) : h.refresh = { h with
    timer := if h.timer = none then none else if h.holdTime = 0 then none else some (h.holdTime * 1000) } := by
  obtain ⟨holdTime, timer, safe, event⟩ := h
  cases timer <;> rfl

/-- R76, R89: the image is replaced, after the pending confirm has been superseded and the timer refreshed. -/
theorem State.replaceOutputs_eq (s : State) (k : StationId) (image : List Byte) :
    s.replaceOutputs k image = State.withStation { s with
        hm := { s.hm with timer := if s.hm.timer = none then none
          else if s.hm.holdTime = 0 then none else some (s.hm.holdTime * 1000) }
        hqi := { s.hqi with readyList := s.hqi.readyList ++ s.confirmEntries [k] } } k
      { (s.station k).confirmEnded (.ended .superseded) with outputImage := image } := by
  rw [State.replaceOutputs, State.endConfirm_eq, HoldMonitor.refresh_eq, State.updStation_eq_withStation]
  simp [State.withStation, State.station]

theorem Station.confirmEnded_state (status : Status) (e : Station) : (e.confirmEnded status).state = e.state := by
  unfold Station.confirmEnded
  split <;> rfl

/-- R77: the status with which an accepted WRITE_OUTPUTS completes. -/
theorem State.writeStatus_of_confirm (s : State) (k : StationId) : s.writeStatus k true =
    if (s.station k).inService = false ∨ s.sc.engine ≠ .run then some (.station .notActive)
    else if s.hm.safe then some (.station .outputsHeld) else none := by
  simp [State.writeStatus]

/-- Settles O34. -/
theorem writeOutputsReplacesImage : Obligations.WriteOutputsReplacesImage := by
  intro s t k takes address taken used staying data e replaced
  have station : t.record.station = some k := (t.record.station_eq_some_iff k).mpr address
  have pass : s.imageCheck k = none :=
    (State.imageCheck_of_open taken).trans ((if_neg used).trans (if_neg (by simp [staying])))
  have length : t.record.dataLength = fieldAt t.record 5 1 := (fieldAt_one t.record 5 (by omega)).symm
  have row : exec .writeOutputs s = .next (if fieldAt t.record 5 1 ≠ (s.station k).outputSize then
        s.transferAnswered t (.rejected .badLength) []
      else match replaced.writeStatus k t.record.confirmFlag with
        | some status => replaced.transferAnswered t status []
        | none => (replaced.updStation k (Station.deferConfirm t)).dropTaken) := by
    refine congrArg Host.Outcome.next ((State.applyTransfer_of_takes _ takes).trans ?_)
    simp only [State.onWriteOutputs, station, pass, length, State.replaceOutputs_eq, Record.data_eq]
    rfl
  have entry : replaced.station k = { e with outputImage := data } := State.withStation_station ..
  have service : (replaced.station k).inService = (s.station k).inService := by
    rw [entry, Station.inService, Station.inService]
    simp only [e, Station.confirmEnded_state]
  rw [row]
  refine ⟨fun wrong => congrArg Host.Outcome.next (if_pos wrong), fun right => ?_⟩
  rw [if_neg (not_not_intro right)]
  have flag : t.record.confirmFlag = t.record[1].getLsbD 0 := rfl
  refine ⟨fun noConfirm => ?_, fun confirm => ?_⟩
  · rw [flag, noConfirm]
    rfl
  rw [flag, confirm, State.writeStatus_of_confirm, service]
  refine ⟨fun idle => ?_, fun active run safe => ?_, fun active run safe => ?_⟩
  · have inactive : (s.station k).inService = false ∨ replaced.sc.engine ≠ .run :=
      idle.imp_right fun (config : replaced.sc.engine = .config) => by simp [config]
    rw [if_pos inactive]
  · have runs : replaced.sc.engine = .run := run
    have held : replaced.hm.safe = true := safe
    rw [if_neg (by simp [active, runs]), if_pos held]
  · have runs : replaced.sc.engine = .run := run
    have clear : replaced.hm.safe = false := safe
    rw [if_neg (by simp [active, runs]), if_neg (by simp [clear])]
    rw [State.updStation_eq_withStation, entry]
    rfl

end Sys2Proof.Machine
end

section
/-! READ_INPUTS, SET_WATCH, KEEPALIVE and the remote requests that are accepted (R81, R82, R89, R90, R99, R100). -/

namespace Sys2Proof.Machine

/-- Settles O35. -/
theorem readInputsAndSetWatch : Obligations.ReadInputsAndSetWatch := by
  intro s t k address taken used staying
  have station : t.record.station = some k := (t.record.station_eq_some_iff k).mpr address
  have pass : s.imageCheck k = none :=
    (State.imageCheck_of_open taken).trans ((if_neg used).trans (if_neg (by simp [staying])))
  refine ⟨fun takes => ?_, fun takes => ?_⟩
  · have row : exec .readInputs s = .next (if (s.station k).inputsValid then
          s.transferAnswered t .ok (s.station k).inputImage
        else s.transferAnswered t (.station .inputsNotValid) []) := by
      refine congrArg Host.Outcome.next ((State.applyTransfer_of_takes _ takes).trans ?_)
      simp only [State.onReadInputs, station, pass]
      rfl
    exact ⟨fun valid => row.trans (congrArg Host.Outcome.next (if_pos valid)),
      fun invalid => row.trans (congrArg Host.Outcome.next (if_neg (by simp [invalid])))⟩
  · have length : t.record.dataLength = fieldAt t.record 5 1 := (fieldAt_one t.record 5 (by omega)).symm
    have row : exec .setWatch s = .next (if fieldAt t.record 5 1 ≠ (s.station k).inputSize then
          s.transferAnswered t (.rejected .badLength) []
        else State.transferAnswered (s.withStation k { s.station k with
          watchMask := (t.record.toList.drop 32).take (fieldAt t.record 5 1)
          lastReported := (s.station k).inputImage }) t .ok []) := by
      refine congrArg Host.Outcome.next ((State.applyTransfer_of_takes _ takes).trans ?_)
      simp only [State.onSetWatch, station, pass, length, Record.data_eq]
      rfl
    exact ⟨fun wrong => row.trans (congrArg Host.Outcome.next (if_pos wrong)),
      fun right => row.trans (congrArg Host.Outcome.next (if_neg (not_not_intro right)))⟩

/-- Settles O36: the refresh leaves a timer that does not run, and loads one that does. -/
theorem keepaliveRefreshesHoldTimer : Obligations.KeepaliveRefreshesHoldTimer := by
  intro s t takes taken
  have row : exec .keepalive s = .next (State.transferAnswered { s with hm := s.hm.refresh } t .ok []) :=
    congrArg Host.Outcome.next ((State.applyTransfer_of_takes _ takes).trans (if_pos (by simpa using taken)))
  rw [row, HoldMonitor.refresh_eq]
  refine ⟨fun stopped => ?_, fun left runs safe held => ?_⟩
  · rw [if_pos stopped, ← stopped]
  · rw [if_neg (by simp [runs]), if_neg (by omega)]

/-! ### Remote requests (R99, R100) -/

theorem inRange_iff (lo hi n : Nat) : inRange lo hi n = true ↔ lo ≤ n ∧ n ≤ hi := by
  simp [inRange]

/-- R99: the checks that come after those of O33. -/
theorem State.remoteCheck_of_open {s : State} {k : StationId} (kind : RemoteKind) (t : TakenRecord)
    (run : s.sc.engine = .run) (used : (s.station k).state ≠ .unused) (staying : (s.station k).removePending = false) :
    s.remoteCheck kind t k =
      if (s.station k).state ∉ (if kind = .restart then [.active, .degraded, .mismatch] else [.active, .degraded]
        : List StationState) then some (.station .notActive)
      else if ¬ (kind = .read → 1 ≤ fieldAt t.record 8 1 ∧ fieldAt t.record 8 1 ≤ 32) then
        some (.rejected .badParameter)
      else if ¬ (if kind = .write then 1 ≤ fieldAt t.record 5 1 ∧ fieldAt t.record 5 1 ≤ 32
        else fieldAt t.record 5 1 = 0) then some (.rejected .badLength)
      else none := by
  have size : t.record.dataLength = fieldAt t.record 5 1 := (fieldAt_one t.record 5 (by omega)).symm
  have number : t.record.readCount = fieldAt t.record 8 1 := (fieldAt_one t.record 8 (by omega)).symm
  have outOfService : (!((s.station k).inService || (kind = .restart && (s.station k).state = .mismatch))) = true
      ↔ (s.station k).state ∉ (if kind = .restart then [.active, .degraded, .mismatch] else [.active, .degraded]
        : List StationState) := by
    cases kind <;> simp [Station.inService, and_assoc]
  have badCount : (kind = .read ∧ (!inRange 1 32 t.record.readCount) = true)
      ↔ ¬ (kind = .read → 1 ≤ fieldAt t.record 8 1 ∧ fieldAt t.record 8 1 ≤ 32) := by
    rw [Bool.not_eq_true', ← Bool.not_eq_true, inRange_iff, number, Classical.not_imp]
  have badLength : (kind = .write ∧ (!inRange 1 32 t.record.dataLength) = true)
      ∨ (kind ≠ .write ∧ t.record.dataLength ≠ 0)
      ↔ ¬ (if kind = .write then 1 ≤ fieldAt t.record 5 1 ∧ fieldAt t.record 5 1 ≤ 32
        else fieldAt t.record 5 1 = 0) := by
    rw [Bool.not_eq_true', ← Bool.not_eq_true, inRange_iff, size]
    by_cases write : kind = .write <;> simp [write]
  refine (if_neg (not_not_intro run)).trans ((if_neg (by simp [Station.configured, used])).trans
    ((if_neg (by simp [staying])).trans ?_))
  exact ite_congr (propext outOfService) (fun _ => rfl) fun _ => ite_congr (propext badCount) (fun _ => rfl) fun _ =>
    ite_congr (propext badLength) (fun _ => rfl) fun _ => rfl

/-- A search over all of `Fin n` finds the lowest one. -/
theorem find?_finRange {n : Nat} {p : Fin n → Bool} {i : Fin n} (hp : p i = true) (lowest : ∀ j, j < i → p j = false) :
    (List.finRange n).find? p = some i := by
  rw [List.find?_eq_some_iff_getElem]
  refine ⟨hp, i.val, by simp, by simp, fun j hj => ?_⟩
  simpa using lowest ⟨j, hj.trans i.isLt⟩ hj

theorem State.lowestFree_eq {s : State} {i : SlotId} (free : (s.slot i).state = .free)
    (lowest : ∀ j, j < i → (s.slot j).state ≠ .free) : s.lowestFree = some i :=
  find?_finRange (by simp [free]) fun j hj => by simp [lowest j hj]

/-- R100: the slot an accepted request fills, by the bytes of its record. -/
theorem Slot.filled_eq (kind : RemoteKind) (t : TakenRecord) (k : StationId) : Slot.filled kind t k = {
    state := .queued
    kind := some kind
    tag := t.record[3] ++ t.record[2]
    index := t.index
    station := some k
    remoteAddress := if kind = .restart then none else some (t.record[7] ++ t.record[6])
    count := match kind with | .read => fieldAt t.record 8 1 | .write => fieldAt t.record 5 1 | .restart => 0
    data := if kind = .write then (t.record.toList.drop 32).take (fieldAt t.record 5 1) else []
    attemptCount := 0, waitCount := 0, fitPass := 0, form := none, doubtful := false, abortPending := false
    backoffTimer := none, result := none } := by
  have size : t.record.dataLength = fieldAt t.record 5 1 := (fieldAt_one t.record 5 (by omega)).symm
  have number : t.record.readCount = fieldAt t.record 8 1 := (fieldAt_one t.record 8 (by omega)).symm
  simp only [Slot.filled, size, number, Record.data_eq]
  cases kind <;> rfl

/-- Settles O37: the checks in order, and then the slot that is filled. -/
theorem remoteRequestsAccepted : Obligations.RemoteRequestsAccepted := by
  intro s t k address run used staying row hrow takes kind states n length goodCount goodLength turned
  have station : t.record.station = some k := (t.record.station_eq_some_iff k).mpr address
  have listed : row ∈ remoteRequests := hrow
  have check := State.remoteCheck_of_open kind t run used staying
  have away {status : Status} (h : s.remoteCheck kind t k = some status) : turned status :=
    exec_remoteRequest_turned row listed takes station h
  refine ⟨fun out => away (check.trans (if_pos out)), fun serves bad => away (check.trans ?_),
    fun serves good bad => away (check.trans ?_), fun serves good fits i free lowest => ?_⟩
  · exact (if_neg (not_not_intro serves)).trans (if_pos bad)
  · exact (if_neg (not_not_intro serves)).trans ((if_neg (not_not_intro good)).trans (if_pos bad))
  · have pass : s.remoteCheck kind t k = none := check.trans ((if_neg (not_not_intro serves)).trans
      ((if_neg (not_not_intro good)).trans (if_neg (not_not_intro fits))))
    rw [exec_remoteRequest row listed takes]
    simp only [State.onRemote, station]
    rw [pass, State.lowestFree_eq free lowest]
    simp only [State.acceptInto, Slot.filled_eq]
    rfl

end Sys2Proof.Machine
end

section
/-! The frames on the line (R3 to R5, R16, R104): their bytes, the CRC, and the request of an attempt. -/

namespace Sys2Proof.Machine

/-! ### The CRC (R4) -/

/-- Shifts that push no 1 bit out do not meet the polynomial. -/
theorem crcShift_repeat {x : Half} {n : Nat} (h : x.toNat * 2 ^ n < 2 ^ 16) :
    Nat.repeat crcShift n x = x <<< n := by
  induction n with
  | zero => simp [Nat.repeat]
  | succ n ih =>
    have below : x.toNat * 2 ^ n < 2 ^ 15 := by
      rw [Nat.pow_succ, ← Nat.mul_assoc] at h
      omega
    have value : (x <<< n).toNat = x.toNat * 2 ^ n := by
      rw [BitVec.toNat_shiftLeft, Nat.shiftLeft_eq, Nat.mod_eq_of_lt (by omega)]
    have clear : (x <<< n).msb = false := by
      rw [BitVec.msb_eq_decide, decide_eq_false_iff_not, value]
      omega
    rw [Nat.repeat, ih (by omega), crcShift, clear, if_neg Bool.false_ne_true, ← BitVec.shiftLeft_add]

theorem highByte_getLsbD (b : Byte) (i : Nat) :
    (b ++ (0 : Byte) : Half).getLsbD i = if i < 8 then false else b.getLsbD (i - 8) := by
  refine (BitVec.getLsbD_append (x := b) (y := (0 : Byte))).trans ?_
  by_cases h : i < 8 <;> simp [h]

/-- R4: folding in the register's own high byte leaves its low byte in the high place. -/
theorem crcByte_high (c : Half) : crcByte c (c.extractLsb' 8 8) = c <<< 8 := by
  have low : c ^^^ (c.extractLsb' 8 8 ++ (0 : Byte)) = (c.extractLsb' 0 8).setWidth 16 := by
    refine BitVec.eq_of_getLsbD_eq fun i hi => ?_
    rw [BitVec.getLsbD_xor, highByte_getLsbD]
    by_cases byte : i < 8
    · simp [byte, hi]
    · have high : 8 + (i - 8) = i := by omega
      simp [byte, high, show i - 8 < 8 by omega]
  have small := (c.extractLsb' 0 8).isLt
  have value : ((c.extractLsb' 0 8).setWidth 16).toNat = (c.extractLsb' 0 8).toNat :=
    BitVec.toNat_setWidth_of_le (by omega)
  rw [crcByte, low, crcShift_repeat (by omega)]
  refine BitVec.eq_of_getLsbD_eq fun i hi => ?_
  by_cases byte : i < 8
  · simp [byte]
  · simp [byte, hi, show i - 8 < 8 by omega, show i - 8 < 16 by omega]

/-- R4: the CRC's own bytes, high byte first, bring the register to 0. -/
theorem crc_residue (body : List Byte) :
    crc (body ++ [(crc body).extractLsb' 8 8, (crc body).extractLsb' 0 8]) = 0 := by
  have high : ((crc body).extractLsb' 0 8) = ((crc body) <<< 8).extractLsb' 8 8 := by
    refine BitVec.eq_of_getLsbD_eq fun i hi => ?_
    simp [hi, show 8 + i < 16 by omega]
    exact BitVec.getLsbD_eq_getElem (by omega)
  have step : crc (body ++ [(crc body).extractLsb' 8 8, (crc body).extractLsb' 0 8])
      = crcByte (crcByte (crc body) ((crc body).extractLsb' 8 8)) ((crc body).extractLsb' 0 8) :=
    List.foldl_append
  rw [step, crcByte_high, high, crcByte_high, ← BitVec.shiftLeft_add]
  exact BitVec.shiftLeft_eq_zero (Nat.le_refl 16)

/-! ### Frames (R3, R5) -/

theorem addressByte_toNat {address : Nat} (h : address < 32) (toggle : Bool) :
    (addressByte address false toggle).toNat = address + 64 * toggle.toNat := by
  have all : ∀ a < 32, ∀ b : Bool, (addressByte a false b).toNat = a + 64 * b.toNat := by decide
  exact all address h toggle

/-- Settles O38: the bytes and the CRC of a frame, then the request of each kind of attempt. -/
theorem framesCarryRequestAndCrc : Obligations.FramesCarryRequestAndCrc := by
  refine ⟨fun q address payload => ?_, by decide +kernel, fun s i k station => ?_⟩
  · let body := [addressByte q.address false q.toggle, q.kind.code, byteOf q.payload.length] ++ q.payload
    have covered : (q.frame.drop 1).take (3 + q.payload.length) = body :=
      List.take_left' (l₂ := halfBytes (crc body)) (by simp; omega)
    refine ⟨addressByte q.address false q.toggle, (crc body).extractLsb' 0 8, (crc body).extractLsb' 8 8, ?_,
      addressByte_toNat address q.toggle, by rw [covered]; exact crc_residue body⟩
    cases h : q.kind <;> simp [SendRequest.frame, h, FrameKind.code, byteOf, body, halfBytes, Config.delimiter]
  · have form : s.nextForm i = if ((s.slot i).kind = some .write ∨ (s.slot i).kind = some .restart)
        ∧ (s.station k).resync then .resync else .frame := by
      simp only [State.nextForm, station]
    refine ⟨fun effectful resync => ?_, fun read => ?_, fun write clear => ?_, fun restart clear => ?_⟩
    · rw [if_pos ⟨by simpa using effectful, resync⟩] at form
      simp only [State.attemptRequest, form]
      rfl
    · rw [if_neg (by simp [read])] at form
      simp only [State.attemptRequest, form, read]
      rfl
    · rw [if_neg (by simp [clear])] at form
      simp only [State.attemptRequest, form, write]
      rfl
    · rw [if_neg (by simp [clear])] at form
      simp only [State.attemptRequest, form, restart]
      rfl

end Sys2Proof.Machine
end

section
/-! The Line Controller between frames (R2, R9 to R12, R15, R19, R20): byte times, the end of a frame and of a
gap, and a character by the line state. -/

namespace Sys2Proof.Machine

/-! ### Byte times and the ends of a frame and of a gap -/

/-- R2: the product in eighths of a microsecond, rounded up. -/
theorem BitRate.byteTimes_bounds (rate : BitRate) (n : Nat) :
    n * rate.byteEighths ≤ 8 * rate.byteTimes n ∧ 8 * rate.byteTimes n < n * rate.byteEighths + 8 := by
  rw [BitRate.byteTimes]
  omega

/-- Settles O39. -/
theorem frameSentAndGapEnd : Obligations.FrameSentAndGapEnd := by
  refine ⟨fun p n => ?_, fun s => ⟨fun x p sending hx hp => ⟨fun other => ?_, fun sync => ?_⟩, fun idle => ?_,
    fun gap timer => ⟨fun q held => ?_, fun none quiet => ?_⟩, fun waits => ?_⟩⟩
  · have bounds := p.rate.byteTimes_bounds n
    cases h : p.rate <;> rw [h] at bounds <;> exact ⟨bounds.1, bounds.2, by rw [LineParams.gapTime, h]⟩
  · refine congrArg Host.Outcome.next ((if_pos sending).trans ?_)
    rw [hx]
    refine (if_neg other).trans ?_
    rw [hp]
    rfl
  · refine congrArg Host.Outcome.next ((if_pos sending).trans ?_)
    rw [hx]
    refine (if_pos sync).trans ?_
    have gapTime : s.lc.params.elim 0 LineParams.gapTime = p.gapTime := by rw [hp]; rfl
    rw [enterGap_eq, gapTime]
    rfl
  · exact congrArg Host.Outcome.next (if_neg idle)
  · refine congrArg Host.Outcome.next ((if_pos ⟨gap, timer⟩).trans ?_)
    rw [held]
    rfl
  · refine congrArg Host.Outcome.next ((if_pos ⟨gap, timer⟩).trans ?_)
    rw [none]
    have still : State.startsAtIdle { s with lc := { s.lc with state := .idle, gapTimer := .none } } = false := quiet
    exact (if_neg (by rw [still]; decide)).trans rfl
  · refine congrArg Host.Outcome.next (if_neg ?_)
    rintro ⟨gap, timer⟩
    exact waits.elim (· gap) (· timer)

/-! ### Characters (R11, R12, R19, R20) -/

theorem State.countUnexpected_eq (s : State) : s.countUnexpected = s.trafficCounted := by
  unfold State.countUnexpected State.trafficCounted
  by_cases loud : 4 ≤ (satInc s.lc.perCycle).toNat
  · simp only [if_pos loud]
    rfl
  · simp only [if_neg loud]

theorem isDelimiter_iff (c : Character) :
    Character.isDelimiter c = true ↔ c.data = 0xA5 ∧ c.framingError = false := by
  rw [Character.isDelimiter, Bool.and_eq_true, decide_eq_true_eq, Bool.not_eq_true']
  exact Iff.rfl

/-- The rows of a character are one event. -/
theorem exec_character {c : Character} {row : Instr} (h : row ∈ [.replyCharacter c, .unexpectedCharacter c,
      .characterDiscardedInAwaiting c]
      ++ (if c = { data := 0xA5, framingError := false } then [Instr.replyDelimiter] else [])) (s : State) :
    exec row s = .next (s.onCharacter c) := by
  rw [List.mem_append] at h
  rcases h with h | h
  · simp only [List.mem_cons, List.not_mem_nil, or_false] at h
    rcases h with rfl | rfl | rfl <;> rfl
  · split at h
    case isTrue delimiter =>
      rw [List.mem_singleton.mp h, delimiter]
      rfl
    case isFalse => exact absurd h List.not_mem_nil

/-- R2: two byte times at each bit rate, rounded up. -/
theorem LineParams.twoByteTimes_eq (p : LineParams) : p.twoByteTimes = match p.rate with
    | .k500 => 40 | .m1 => 20 | .m2 => 10 | .m4 => 5 | .m8 => 3 := by
  unfold LineParams.twoByteTimes
  cases p.rate <;> rfl

/-- R19, R20: a character in IDLE or GAP; the first one of a run is counted. -/
theorem State.unexpected_eq {s : State} {p : LineParams} (params : s.lc.params = some p) : s.unexpected =
    if s.lc.run = true then { s with lc := { s.lc with quietTimer := some p.twoByteTimes } }
    else { s with
      lc := { s.trafficCounted.lc with run := true, quietTimer := some p.twoByteTimes }
      fl := s.trafficCounted.fl } := by
  have loaded (u : State) (h : u.lc.params = some p) :
      { u with lc := { u.lc with quietTimer := u.lc.params.map LineParams.twoByteTimes } }
        = { u with lc := { u.lc with quietTimer := some p.twoByteTimes } } := by
    have two : u.lc.params.map LineParams.twoByteTimes = some p.twoByteTimes := by rw [h]; rfl
    rw [two]
  unfold State.unexpected
  cases run : s.lc.run with
  | true => exact loaded s params
  | false =>
    rw [if_neg Bool.false_ne_true, if_neg Bool.false_ne_true, State.countUnexpected_eq]
    exact loaded _ params

/-- R12: the discard of what follows a length above 34. -/
theorem LineController.receive_eq {l : LineController} {p : LineParams} (params : l.params = some p) (c : Character) :
    l.receive c = { l with
      rx := replyWith l.rx c
      corrupt := l.corrupt || c.framingError
      responseTimer := some p.twoByteTimes } := by
  have two : l.params.map LineParams.twoByteTimes = some p.twoByteTimes := by rw [params]; rfl
  have rx := receive_rx c l
  unfold LineController.receive at rx ⊢
  dsimp only at rx
  rw [rx, two]

/-- R11, R12, R19: a character with line parameters held, by the state of the line. -/
theorem State.onCharacter_spec {s : State} {p : LineParams} (params : s.lc.params = some p) (c : Character) :
    (s.lc.state = .awaiting → c.data = 0xA5 ∧ c.framingError = false → s.onCharacter c = { s with lc := { s.lc with
      state := .receiving
      responseTimer := some p.twoByteTimes
      rx := [0xA5]
      corrupt := false } })
    ∧ (s.lc.state = .receiving → s.outcomeAt (.character c) = none → s.onCharacter c = { s with lc := { s.lc with
      rx := replyWith s.lc.rx c
      corrupt := s.lc.corrupt || c.framingError
      responseTimer := some p.twoByteTimes } })
    ∧ (s.lc.state ∈ [.idle, .gap] → s.onCharacter c = s.unexpected) := by
  refine ⟨fun awaiting begins => ?_, fun receiving unended => ?_, fun free => ?_⟩
  · simp only [State.onCharacter, awaiting]
    refine (if_pos ((isDelimiter_iff c).mpr begins)).trans ?_
    have timer : s.lc.params.map LineParams.twoByteTimes = some p.twoByteTimes := by rw [params]; rfl
    rw [timer, begins.1]
  · rw [outcomeAt_character, if_pos receiving] at unended
    simp only [State.onCharacter, receiving, State.receiveCharacter, unended]
    rw [LineController.receive_eq params, ← receiving]
  · simp only [List.mem_cons, List.not_mem_nil, or_false] at free
    rw [State.onCharacter]
    rcases free with idle | gap
    · rw [idle]
    · rw [gap]

/-- Settles O40: by the state of the line. -/
theorem charactersByLineState : Obligations.CharactersByLineState := by
  intro s c delimiter
  refine ⟨fun quiet => congrArg Host.Outcome.next (if_pos quiet), fun row hrow => ?_⟩
  have row_eq := exec_character hrow s
  refine ⟨fun disabled => ?_, fun awaiting other => ?_, fun p params => ?_⟩
  · simp only [List.mem_cons, List.not_mem_nil, or_false] at disabled
    rw [row_eq, State.onCharacter]
    rcases disabled with off | sending
    · rw [off]
    · rw [sending]
  · rw [row_eq]
    simp only [State.onCharacter, awaiting]
    exact congrArg Host.Outcome.next (if_neg ((isDelimiter_iff c).not.mpr other))
  · obtain ⟨begins, goesOn, unexpected⟩ := State.onCharacter_spec params c
    have traffic := State.unexpected_eq params
    have two := p.twoByteTimes_eq
    rw [row_eq]
    generalize p.rate = rate at two ⊢
    cases rate
    all_goals
      rw [two] at begins goesOn traffic
      exact ⟨fun h d => congrArg Host.Outcome.next (begins h d), fun h o => congrArg Host.Outcome.next (goesOn h o),
        fun free run => congrArg Host.Outcome.next ((unexpected free).trans (traffic.trans (if_pos run))),
        fun free quiet => congrArg Host.Outcome.next
          ((unexpected free).trans (traffic.trans (if_neg (by simp [quiet]))))⟩

end Sys2Proof.Machine
end

section
/-! Reports at the Station Table (R28 to R36, R46, R78, R83): each operation as one change of a station entry,
with what it does to the fault list and the ready list. -/

namespace Sys2Proof.Machine

/-! ### Operations on an entry that has just been written -/

theorem State.updStation_withStation (s : State) (k : StationId) (e : Station) (f : Station → Station) :
    (s.withStation k e).updStation k f = s.withStation k (f e) := by
  simp [State.updStation, State.withStation]

theorem State.moveStation_withStation (s : State) (k : StationId) (e : Station) {dest : StationState}
    (h : dest ≠ .unused) : (s.withStation k e).moveStation k dest
      = s.withStation k { e with state := dest, report := e.reportAfter s.st.stateEvents dest } := by
  rw [← Station.moveTo_eq_with s.st.stateEvents dest e h]
  exact s.updStation_withStation k e _

/-- R46: a configured station counts the report. -/
theorem State.countReport_of_configured {s : State} {k : StationId} (h : (s.station k).configured = true)
    (poll : Bool) (o : LineOutcome) : s.countReport k poll o
      = s.withStation k { s.station k with counters := (s.station k).counters.count poll o } :=
  if_pos h

/-- R33: the status code of a GOOD POLL at the fault list and at the entry. -/
theorem State.statusCheck_withStation (s : State) (k : StationId) (e : Station) (code : BitVec 4) :
    (s.withStation k e).statusCheck k code = State.withStation { s with
      fl := if code ≠ 0 ∧ code ≠ e.statusCode then
          s.fl.raise .stationError (k.val + 1) (code.zeroExtend 8) s.cs.cycle
        else if code = 0 ∧ e.statusCode ≠ 0 then s.fl.endCause .stationError (k.val + 1) else s.fl } k
      { e with statusCode := code } := by
  unfold State.statusCheck
  simp only [State.withStation_station]
  by_cases up : code ≠ 0 ∧ code ≠ e.statusCode
  · rw [if_pos up, if_pos up]
    exact State.updStation_withStation (s.raise .stationError (address k) (code.zeroExtend 8)) k e _
  · rw [if_neg up, if_neg up]
    by_cases down : code = 0 ∧ e.statusCode ≠ 0
    · rw [if_pos down, if_pos down]
      exact State.updStation_withStation (s.endCause .stationError (address k)) k e _
    · rw [if_neg down, if_neg down]
      exact State.updStation_withStation s k e _

/-- R78, R80: a pending confirm that the POLL carried is completed. -/
theorem State.judgeConfirm_withStation (s : State) (k : StationId) (e : Station) :
    (s.withStation k e).judgeConfirm k = if e.confirm.elim false (·.carried) = true then
        State.withStation { s with hqi := { s.hqi with readyList := s.hqi.readyList ++ [.confirm k] } } k
          (e.confirmEnded .ok)
      else s.withStation k e := by
  have entries : ∀ c, e.confirm = some c → (s.withStation k e).confirmEntries [k] = [.confirm k] := by
    intro c hc
    simp [State.confirmEntries, State.withStation_station, hc]
  unfold State.judgeConfirm
  rw [State.withStation_station]
  cases confirm : e.confirm with
  | none => rfl
  | some c =>
    cases carried : c.carried with
    | false => simp [carried]
    | true =>
      simp only [Option.elim, carried, if_true]
      rw [State.endConfirm_eq, entries c confirm, State.withStation_station, State.withStation_withStation]
      rfl

/-! ### A GOOD POLL (R32, R33, R78, R83) -/

/-- R83: the change report with the watched changes of a POLL. -/
theorem ChangeReport.accumulate_eq (bits : List Byte) (c : ChangeReport) : c.accumulate bits =
    if ∀ b ∈ bits, b = 0 then c
    else if ∀ b ∈ c.bits, b = 0 then { c with bits := orBytes c.bits bits, pending := c.pending || !c.inStaging }
    else { c with bits := orBytes c.bits bits, coalesce := satInc c.coalesce } := by
  have zero (l : List Byte) : anyNonzero l = true ↔ ¬ ∀ b ∈ l, b = 0 := by
    simp [anyNonzero]
  unfold ChangeReport.accumulate
  by_cases quiet : ∀ b ∈ bits, b = 0
  · rw [if_pos quiet, if_neg ((zero bits).not.mpr (not_not_intro quiet))]
  · rw [if_neg quiet, if_pos ((zero bits).mpr quiet)]
    by_cases fresh : ∀ b ∈ c.bits, b = 0
    · rw [if_pos fresh, if_neg ((zero c.bits).not.mpr (not_not_intro fresh))]
    · rw [if_neg fresh, if_pos ((zero c.bits).mpr fresh)]

/-- R32, R83: the entry with the inputs of a GOOD POLL taken. -/
theorem Station.takeInputs_eq (inputs : List Byte) (e : Station) : e.takeInputs inputs = { e with
    inputImage := inputs
    inputsValid := true
    lastReported := if e.inputsValid then e.lastReported else inputs
    change := if e.inputsValid = false ∨ (∀ b ∈ e.changedBits inputs, b = 0) then e.change
      else if ∀ b ∈ e.change.bits, b = 0 then
        { e.change with
          bits := orBytes e.change.bits (e.changedBits inputs)
          pending := e.change.pending || !e.change.inStaging }
      else
        { e.change with
          bits := orBytes e.change.bits (e.changedBits inputs)
          coalesce := satInc e.change.coalesce } } := by
  unfold Station.takeInputs
  cases valid : e.inputsValid with
  | false => simp
  | true => simp [ChangeReport.accumulate_eq]

/-- R32: all that a GOOD POLL does at an entry that has just been written. -/
theorem State.goodPoll_withStation (s : State) (k : StationId) (e : Station) (payload : List Byte) :
    let code := (payload.headD 0).extractLsb' 0 4
    let carried := e.confirm.elim false (·.carried)
    let taken := Station.takeInputs payload.tail { e with
      state := .active, report := e.reportAfter s.st.stateEvents .active, missCount := 0, statusCode := code }
    (s.withStation k e).goodPoll k payload = State.withStation { s with
      fl := if code ≠ 0 ∧ code ≠ e.statusCode then
          s.fl.raise .stationError (k.val + 1) (code.zeroExtend 8) s.cs.cycle
        else if code = 0 ∧ e.statusCode ≠ 0 then s.fl.endCause .stationError (k.val + 1) else s.fl
      hqi := if carried then { s.hqi with readyList := s.hqi.readyList ++ [.confirm k] } else s.hqi } k
      (if carried then taken.confirmEnded .ok else taken) := by
  intro code carried taken
  have confirm : taken.confirm = e.confirm := by
    simp only [taken, Station.takeInputs_eq]
  rw [State.goodPoll, State.moveStation_withStation _ _ _ (by decide), State.updStation_withStation,
    State.statusCheck_withStation, State.updStation_withStation, State.judgeConfirm_withStation]
  have judged : (taken.confirm.elim false (·.carried)) = carried := by rw [confirm]
  cases h : carried with
  | false => exact if_neg (by rw [judged, h]; decide)
  | true => exact if_pos (judged.trans h)

/-- R32, R46, R78, R83: the entry after a GOOD POLL, in terms of the entry before it. -/
theorem Station.goodPoll_entry (e : Station) (counters : StationCounters) (stateEvents : Bool) (code : BitVec 4)
    (inputs : List Byte) :
    let carried := e.confirm.elim false (·.carried)
    let confirmed := if carried then e.confirmEnded .ok else e
    let changed := andBytes (xorBytes inputs e.inputImage) e.watchMask
    let taken := Station.takeInputs inputs { e with
      counters := counters, state := .active, report := e.reportAfter stateEvents .active, missCount := 0
      statusCode := code }
    (if carried then taken.confirmEnded .ok else taken) = { confirmed with
      state := .active
      report := e.reportAfter stateEvents .active
      missCount := 0
      statusCode := code
      counters := counters
      inputImage := inputs
      inputsValid := true
      lastReported := if e.inputsValid then e.lastReported else inputs
      change := if e.inputsValid = false ∨ (∀ b ∈ changed, b = 0) then e.change
        else if ∀ b ∈ e.change.bits, b = 0 then
          { e.change with
            bits := orBytes e.change.bits changed
            pending := e.change.pending || !e.change.inStaging }
        else
          { e.change with
            bits := orBytes e.change.bits changed
            coalesce := satInc e.change.coalesce } } := by
  intro carried confirmed changed taken
  have taken_eq : taken = _ := Station.takeInputs_eq ..
  cases h : carried with
  | false =>
    simp only [confirmed, h, Bool.false_eq_true, if_false]
    exact taken_eq
  | true =>
    obtain ⟨c, hc⟩ : ∃ c, e.confirm = some c := by
      refine Option.ne_none_iff_exists'.mp fun none => ?_
      simp [carried, none] at h
    rw [taken_eq]
    simp only [confirmed, h, if_true, Station.confirmEnded, hc]
    rfl

/-! ### The row of a line event -/

/-- R14: `d` with the exchange over on the line and the request that waits for it told so. -/
def State.lineSettled (s : State) (event : OutcomeEvent) (d : State) : State :=
  { d with
    lc := (s.exchangeOver event).lc
    sc := { d.sc with request := d.sc.request.map fun q => { q with stage := q.stage.lineReported } } }

theorem State.exec_rowOf_of_report {s d : State} {event : OutcomeEvent} {o : LineOutcome} {x : InHand}
    (fixed : s.outcomeAt event = some o) (inHand : s.cs.inHand = some x)
    (report : (s.atDelivery event).deliver x o = d) :
    exec (rowOf event) s = .next (State.continueCycle (State.afterOutcome o (s.lineSettled event d))) := by
  rw [← report]
  exact State.exec_rowOf fixed inHand

theorem State.afterOutcome_good (r : Reply) (s : State) : State.afterOutcome (.good r) s = s :=
  if_neg (by simp)

/-- R27, R32: the report of a GOOD POLL of a station in service. -/
theorem State.pollReport_good {s : State} {k : StationId} (active : (s.station k).inService = true)
    (payload : List Byte) : s.pollReport k (.good (.data payload)) = State.goodPoll k payload
      (s.withStation k { s.station k with
        counters := (s.station k).counters.count true (.good (.data payload)) }) := by
  have configured := Station.configured_of_inService active
  refine (if_pos configured).trans ?_
  rw [State.countReport_of_configured configured]
  exact if_pos (by rw [State.withStation_station]; exact active)

/-- Settles O42: the report at the entry, as the row of the event and as CONFIRM_COMPLETE. -/
theorem goodPollTakesInputs : Obligations.GoodPollTakesInputs := by
  intro s event k payload fixed inHand active e code changed carried confirmed past result
  have row : exec (rowOf event) s = result := by
    have report := (State.pollReport_good (s := s.atDelivery event) active payload).trans
      (State.goodPoll_withStation ..)
    rw [State.exec_rowOf_of_report fixed inHand report, State.afterOutcome_good]
    have entry := Station.goodPoll_entry e (e.counters.count true (.good (.data payload))) s.st.stateEvents code
      payload.tail
    exact congrArg (fun x => Host.Outcome.next (State.continueCycle (State.withStation { past with
      fl := if code ≠ 0 ∧ code ≠ e.statusCode then
          s.fl.raise .stationError (k.val + 1) (code.zeroExtend 8) s.cs.cycle
        else if code = 0 ∧ e.statusCode ≠ 0 then s.fl.endCause .stationError (k.val + 1) else s.fl
      hqi := if carried then { s.hqi with readyList := s.hqi.readyList ++ [.confirm k] } else s.hqi } k x))) entry
  refine ⟨row, fun c character carries => ?_⟩
  subst character
  have completes : s.completesConfirm c = true := by
    rw [outcomeAt_character] at fixed
    split at fixed
    case isTrue receiving =>
      have confirms : ((s.station k).confirm.map (·.carried)).getD false = true := by
        rw [← carries]
        simp only [carried, e]
        cases (s.station k).confirm <;> rfl
      simp only [State.completesConfirm, inHand, receiving, active, confirms, fixed, decide_true, Bool.and_self]
    case isFalse => cases fixed
  exact (congrArg Host.Outcome.next (if_pos completes)).trans row

end Sys2Proof.Machine
end

section
/-! A failed POLL (R34 to R36, R46) and a probe (R28 to R31): misses, the loss of a station, and the identity. -/

namespace Sys2Proof.Machine

/-! ### A miss (R34, R35) -/

theorem Station.confirmEnded_lost (e : Station) (counters : StationCounters) (report : StateReport) (status : Status) :
    Station.confirmEnded status { e with
      counters := counters, state := .lost, report := report, missCount := e.missLimit, inputsValid := false }
      = { e.confirmEnded status with
        state := .lost, report := report, missCount := e.missLimit, inputsValid := false, counters := counters } := by
  unfold Station.confirmEnded
  dsimp only
  split <;> rfl

/-- R35, R80, R113: a station that becomes LOST, from an entry that has just been counted. -/
theorem State.stationLost_counted {s : State} (h : s.tt.FifosMatch) (k : StationId) (counters : StationCounters)
    (d : LinkDetail) :
    let e := s.station k
    ∃ tt, TransactionTable.EndsWaiting s.tt tt [k] (.station .lost)
      ∧ (s.withStation k { e with counters := counters }).stationLost k d = State.withStation { s with
          tt := tt
          fl := (s.fl.endCause .stationError (k.val + 1)).raise .stationLost (k.val + 1) d.code s.cs.cycle
          hqi := { s.hqi with readyList := s.hqi.readyList ++ s.confirmEntries [k] } } k
        { e.confirmEnded (.station .lost) with
          state := .lost
          report := e.reportAfter s.st.stateEvents .lost
          missCount := e.missLimit
          inputsValid := false
          counters := counters } := by
  intro e
  let entry := { e with
    counters := counters, state := .lost, report := e.reportAfter s.st.stateEvents .lost, missCount := e.missLimit
    inputsValid := false }
  let u := State.withStation { s with
    fl := (s.fl.endCause .stationError (k.val + 1)).raise .stationLost (k.val + 1) d.code s.cs.cycle } k entry
  have written : u.station k = entry := State.withStation_station ..
  obtain ⟨same, ends⟩ := State.endStationSlots_ends (.station .lost) rfl k u h
  refine ⟨_, ends, ?_⟩
  have station : (State.endStationSlots (.station .lost) u k).station k = entry := by
    rw [same]
    exact written
  have entries : (State.endStationSlots (.station .lost) u k).confirmEntries [k] = s.confirmEntries [k] := by
    refine State.confirmEntries_congr fun j hj => ?_
    rw [List.mem_singleton.mp hj, station]
  have moved : (s.withStation k { e with counters := counters }).stationLost k d
      = (State.endStationSlots (.station .lost) u k).endConfirm k (.station .lost) := by
    rw [State.stationLost, State.moveStation_withStation _ _ _ (by decide), State.updStation_withStation]
    rfl
  rw [moved, State.endConfirm_eq, entries, station, Station.confirmEnded_lost]
  generalize (State.endStationSlots (.station .lost) u k).tt = tt at same
  rw [same]
  simp only [u, State.withStation, Vector.set_set]

/-- R34: a miss below the limit. -/
theorem State.pollMiss_withStation_of_below (s : State) (k : StationId) (e : Station) (d : LinkDetail)
    (below : e.missCount + 1 < e.missLimit) : (s.withStation k e).pollMiss k d = s.withStation k { e with
      state := .degraded, report := e.reportAfter s.st.stateEvents .degraded, missCount := e.missCount + 1 } := by
  unfold State.pollMiss
  simp only [State.withStation_station, if_pos below]
  rw [State.moveStation_withStation _ _ _ (by decide), State.updStation_withStation]

theorem State.pollMiss_withStation_of_limit (s : State) (k : StationId) (e : Station) (d : LinkDetail)
    (limit : e.missLimit ≤ e.missCount + 1) : (s.withStation k e).pollMiss k d = (s.withStation k e).stationLost k d := by
  unfold State.pollMiss
  simp only [State.withStation_station, if_neg (Nat.not_lt.mpr limit)]

/-- R27: a POLL report of a station out of service counts at a configured one, and does no more. -/
theorem State.pollReport_of_inactive {s : State} {k : StationId} (inactive : (s.station k).inService = false)
    (o : LineOutcome) : s.pollReport k o = if (s.station k).state = .unused then s
      else s.withStation k { s.station k with counters := (s.station k).counters.count true o } := by
  unfold State.pollReport
  by_cases unused : (s.station k).state = .unused
  · rw [if_pos unused, if_neg (by simp [Station.configured, unused])]
  · have configured := (Station.configured_iff _).mpr unused
    rw [if_neg unused, if_pos configured, State.countReport_of_configured configured]
    exact if_neg (by rw [State.withStation_station]; simpa [Station.inService] using inactive)

/-- R34: a POLL report of a station in service that failed is a miss. -/
theorem State.pollReport_failed {s : State} {k : StationId} (active : (s.station k).inService = true)
    (d : LinkDetail) : s.pollReport k (.failed d) = State.pollMiss k d
      (s.withStation k { s.station k with counters := (s.station k).counters.count true (.failed d) }) := by
  have configured := Station.configured_of_inService active
  refine (if_pos configured).trans ?_
  rw [State.countReport_of_configured configured]
  exact if_pos (by rw [State.withStation_station]; exact active)

/-- R46: what a failed POLL counts. -/
theorem StationCounters.count_failed_poll (c : StationCounters) (d : LinkDetail) : c.count true (.failed d) = { c with
    pollsSent := c.pollsSent + 1
    timeouts := if d = .timeout then satInc c.timeouts else c.timeouts
    crcErrors := if d = .crcError then satInc c.crcErrors else c.crcErrors } := by
  cases d <;> rfl

/-- Settles O43: by the state of the station, and by the miss limit. -/
theorem failedPollCountsMiss : Obligations.FailedPollCountsMiss := by
  intro s event k o fixed inHand e counters past
  refine ⟨fun inactive => ?_, fun d active failed => ?_⟩
  · have report := State.pollReport_of_inactive (s := s.atDelivery event) inactive o
    rw [State.exec_rowOf_of_report fixed inHand report]
    by_cases unused : e.state = .unused
    · rw [if_pos unused]
      exact congrArg (fun d => Host.Outcome.next (State.continueCycle (State.afterOutcome o (s.lineSettled event d))))
        (if_pos unused)
    · rw [if_neg unused]
      exact congrArg (fun d => Host.Outcome.next (State.continueCycle (State.afterOutcome o (s.lineSettled event d))))
        (if_neg unused)
  subst failed
  have report : (s.atDelivery event).pollReport k (.failed d)
      = State.pollMiss k d ((s.atDelivery event).withStation k { e with counters := counters }) :=
    State.pollReport_failed (s := s.atDelivery event) active d
  refine ⟨e.counters.count_failed_poll d, fun below => ?_, fun limit sound => ?_⟩
  · rw [State.pollMiss_withStation_of_below _ k { e with counters := counters } d below] at report
    rw [State.exec_rowOf_of_report fixed inHand report]
    rfl
  · obtain ⟨tt, ends, lost⟩ := State.stationLost_counted (s := s.atDelivery event) sound.fifosMatch k counters d
    rw [State.pollMiss_withStation_of_limit _ k { e with counters := counters } d limit] at report
    refine ⟨tt, ends, (State.exec_rowOf_of_report fixed inHand (report.trans lost)).trans ?_⟩
    cases d <;> rfl

end Sys2Proof.Machine
end

section
/-! A probe (R28 to R31, R46): what a GOOD IDENT does at an entry that has just been written. -/

namespace Sys2Proof.Machine

/-! ### The identity (R28) -/

theorem Station.mismatch_recordIdentity (i j : Identity) (e : Station) :
    (e.recordIdentity i).mismatch j = e.mismatch j := rfl

/-- R28: the first field that differs, if one does. -/
theorem Station.mismatch_eq (i : Identity) (e : Station) :
    let typeFits := e.expectedType = 0xFFFF ∨ e.expectedType = i.type
    e.mismatch i = if typeFits ∧ e.inputSize = i.inputSize.toNat ∧ e.outputSize = i.outputSize.toNat then none
      else some (if ¬ typeFits then 1 else if e.inputSize ≠ i.inputSize.toNat then 2 else 3) := by
  intro typeFits
  have wrongType : (e.expectedType ≠ 0xFFFF ∧ e.expectedType ≠ i.type) ↔ ¬ typeFits := by
    simp only [typeFits, not_or, ne_eq]
  unfold Station.mismatch
  by_cases type : typeFits
  · rw [if_neg (wrongType.not.mpr (not_not_intro type)), if_neg (not_not_intro type)]
    by_cases input : e.inputSize = i.inputSize.toNat <;> by_cases output : e.outputSize = i.outputSize.toNat <;>
      simp [type, input, output]
  · rw [if_pos (wrongType.mpr type), if_neg (fun h => type h.1), if_pos type]

/-! ### Entering service and MISMATCH (R29, R30) -/

theorem State.enterService_withStation (s : State) (k : StationId) (e : Station) :
    (s.withStation k e).enterService k = State.withStation { s with
      fl := if e.state = .lost then s.fl.endCause .stationLost (k.val + 1)
        else if e.state = .mismatch then s.fl.endCause .stationMismatch (k.val + 1) else s.fl } k
      { e with state := .active, report := e.reportAfter s.st.stateEvents .active, missCount := 0, statusCode := 0 } := by
  rw [State.enterService, State.moveStation_withStation _ _ _ (by decide), State.updStation_withStation,
    State.withStation_station]
  dsimp only
  by_cases lost : e.state = .lost
  · rw [if_pos lost, if_pos lost]
    rfl
  · rw [if_neg lost, if_neg lost]
    by_cases mismatch : e.state = .mismatch
    · rw [if_pos mismatch, if_pos mismatch]
      rfl
    · rw [if_neg mismatch, if_neg mismatch]

theorem State.enterMismatch_withStation (s : State) (k : StationId) (e : Station) :
    (s.withStation k e).enterMismatch k = s.withStation k
      { e with state := .mismatch, report := e.reportAfter s.st.stateEvents .mismatch, missCount := 0
               inputsValid := false } := by
  rw [State.enterMismatch, State.moveStation_withStation _ _ _ (by decide), State.updStation_withStation]

section
variable (s : State) (k : StationId) {e : Station} {i : Identity}

/-- R28: a GOOD IDENT is recorded, and then judged by its match and by the state of the entry. -/
theorem State.goodIdent_of_fits (fits : e.mismatch i = none) (waits : e.state ∈ [.probing, .lost, .mismatch]) :
    (s.withStation k e).goodIdent k i = (s.withStation k (e.recordIdentity i)).enterService k := by
  have state : (e.recordIdentity i).state = e.state := rfl
  simp only [State.goodIdent, State.updStation_withStation, State.withStation_station,
    Station.mismatch_recordIdentity, fits, state]
  simp only [List.mem_cons, List.not_mem_nil, or_false] at waits
  rcases waits with h | h | h <;> rw [h]

theorem State.goodIdent_of_fits_staying (fits : e.mismatch i = none) (stays : e.state ∉ [.probing, .lost, .mismatch]) :
    (s.withStation k e).goodIdent k i = s.withStation k (e.recordIdentity i) := by
  have state : (e.recordIdentity i).state = e.state := rfl
  simp only [State.goodIdent, State.updStation_withStation, State.withStation_station,
    Station.mismatch_recordIdentity, fits, state]
  cases h : e.state <;> simp [h] at stays ⊢

theorem State.goodIdent_of_restarting (restarting : e.state = .restarting) :
    (s.withStation k e).goodIdent k i = s.withStation k (e.recordIdentity i) := by
  have state : (e.recordIdentity i).state = .restarting := restarting
  simp only [State.goodIdent, State.updStation_withStation, State.withStation_station,
    Station.mismatch_recordIdentity, state]
  cases e.mismatch i <;> rfl

/-- R30, R38: an identity that differs. -/
theorem State.goodIdent_of_differs {d : Nat} (differs : e.mismatch i = some d) (used : e.state ≠ .unused)
    (judged : e.state ≠ .restarting) : (s.withStation k e).goodIdent k i = State.withStation { s with
      fl := (if e.state = .lost then s.fl.endCause .stationLost (k.val + 1)
        else if e.state ∈ [.active, .degraded] then s.fl.endCause .stationError (k.val + 1)
        else s.fl).raise .stationMismatch (k.val + 1) (byteOf d) s.cs.cycle } k
      { e.recordIdentity i with
        state := .mismatch, report := e.reportAfter s.st.stateEvents .mismatch, missCount := 0
        inputsValid := false } := by
  have state : (e.recordIdentity i).state = e.state := rfl
  simp only [State.goodIdent, State.updStation_withStation, State.withStation_station,
    Station.mismatch_recordIdentity, differs, state, State.enterMismatch_withStation]
  cases h : e.state
  case unused => exact absurd h used
  case restarting => exact absurd h judged
  all_goals rfl

end

/-! ### The report of a probe -/

section
variable {s : State} {k : StationId}

theorem State.probeReport_good (configured : (s.station k).configured = true) (payload : List Byte) :
    s.probeReport k (.good (.data payload)) = State.goodIdent k (identityOf payload)
      (s.withStation k { s.station k with
        counters := (s.station k).counters.count false (.good (.data payload)) }) := by
  refine (if_pos configured).trans ?_
  rw [State.countReport_of_configured configured]

/-- R31: any other outcome of a probe only counts. -/
theorem State.probeReport_other (configured : (s.station k).configured = true) {o : LineOutcome}
    (other : ∀ payload, o ≠ .good (.data payload)) : s.probeReport k o
      = s.withStation k { s.station k with counters := (s.station k).counters.count false o } := by
  refine (if_pos configured).trans ?_
  rw [State.countReport_of_configured configured]
  cases o with
  | failed d => rfl
  | good r =>
    cases r with
    | data payload => exact absurd rfl (other payload)
    | done => rfl
    | wait hint => rfl
    | refuse reason => rfl

end

/-- Settles O44: by the match of the identity and the state of the entry. -/
theorem probeIdentityJudged : Obligations.ProbeIdentityJudged := by
  intro s event k o fixed inHand used e past
  have configured : ((s.atDelivery event).station k).configured = true := (Station.configured_iff _).mpr used
  refine ⟨fun other => ?_, ?_⟩
  · rw [State.exec_rowOf_of_report fixed inHand (State.probeReport_other configured other)]
    rfl
  intro type insize outsize firmware typeHigh good identity recorded typeFits fits differs becomes
  subst good
  let counted := { e with counters := { e.counters with goodReplies := e.counters.goodReplies + 1 } }
  have row {d : State} (judged : ((s.atDelivery event).withStation k counted).goodIdent k identity = d) :
      exec (rowOf event) s = .next (State.continueCycle (s.lineSettled event d)) := by
    rw [State.exec_rowOf_of_report fixed inHand ((State.probeReport_good configured _).trans judged),
      State.afterOutcome_good]
  have compared : counted.mismatch identity = if fits then none else some (if ¬ typeFits then 1
      else if e.inputSize ≠ insize.toNat then 2 else 3) := Station.mismatch_eq identity e
  refine ⟨fun isFit waits => ?_, fun isFit active => ?_, fun restarting => ?_, fun notFit judged => ?_⟩
  · have judged := State.goodIdent_of_fits (s.atDelivery event) k (e := counted) (i := identity)
      (compared.trans (if_pos isFit)) waits
    rw [State.enterService_withStation] at judged
    exact row judged
  · have judged := State.goodIdent_of_fits_staying (s.atDelivery event) k (e := counted) (i := identity)
      (compared.trans (if_pos isFit)) (by
        intro waits
        simp only [List.mem_cons, List.not_mem_nil, or_false] at active waits
        rcases active with h | h <;> rw [show counted.state = e.state from rfl, h] at waits <;> simp at waits)
    exact row judged
  · have judged := State.goodIdent_of_restarting (s.atDelivery event) k (e := counted) (i := identity) restarting
    exact row judged
  · have judged := State.goodIdent_of_differs (s.atDelivery event) k (e := counted) (i := identity)
      (compared.trans (if_neg notFit)) used judged
    have number : byteOf (if ¬ typeFits then 1 else if e.inputSize ≠ insize.toNat then 2 else 3) = differs := by
      simp only [differs]
      split_ifs <;> rfl
    rw [number] at judged
    exact row judged

end Sys2Proof.Machine
end

section
/-! The outcome of an attempt (R39, R105, R111, R115): what is counted and answered, and the attempt that completes
its transaction. -/

namespace Sys2Proof.Machine

/-! ### The report of an attempt -/

section
variable {s : State} {i : SlotId} {k : StationId} {o : LineOutcome}

/-- R115: the ABORT that waits for the attempt of slot `x` is answered with the target's ring index. -/
def State.abortAnswered (s : State) (x : Slot) (q : ControlRequest) (status : Status) : State :=
  if x.abortPending = true then s.controlAnswered q status (halfBytes (BitVec.ofNat 16 (x.index % 1024))) [] else s

section
variable (s : State) (x : Slot) (q : ControlRequest) (status : Status)

theorem State.answerAbort_eq (request : x.abortPending = true → s.sc.request = some q) :
    s.answerAbort x.abortPending x.index status = s.abortAnswered x q status := by
  unfold State.answerAbort State.abortAnswered
  split
  case isTrue aborted => exact State.completeControl_of_request (request aborted) ..
  case isFalse => rfl

@[simp] theorem State.abortAnswered_tt : (s.abortAnswered x q status).tt = s.tt := by
  unfold State.abortAnswered
  split <;> rfl

@[simp] theorem State.abortAnswered_st : (s.abortAnswered x q status).st = s.st := by
  unfold State.abortAnswered
  split <;> rfl

@[simp] theorem State.abortAnswered_fl : (s.abortAnswered x q status).fl = s.fl := by
  unfold State.abortAnswered
  split <;> rfl

theorem State.abortAnswered_withStation (k : StationId) (e : Station) :
    (s.withStation k e).abortAnswered x q status = (s.abortAnswered x q status).withStation k e := by
  unfold State.abortAnswered
  split <;> rfl

theorem State.abortAnswered_withSlot (i : SlotId) (y : Slot) :
    (s.withSlot i y).abortAnswered x q status = (s.abortAnswered x q status).withSlot i y := by
  unfold State.abortAnswered
  split <;> rfl

/-- The answer stands whether it is made before or after the line settles: it is READY. -/
theorem State.lineSettled_abortAnswered (event : OutcomeEvent) :
    s.lineSettled event ((s.atDelivery event).abortAnswered x q status)
      = (s.exchangeOver event).abortAnswered x q status := by
  unfold State.abortAnswered
  split <;> rfl

end

/-- R105: a report that completes the transaction, after the station has counted it. -/
theorem State.attemptReport_of_completed (configured : (s.station k).configured = true)
    {q : ControlRequest} (request : (s.slot i).abortPending = true → s.sc.request = some q)
    (completed : (s.slot i).completedBy o = true) : s.attemptReport i k o = State.attemptOk i k o
      ((s.abortAnswered (s.slot i) q (.rejected .tooLate)).withStation k { s.station k with
        counters := (s.station k).counters.count false o }) := by
  rw [State.attemptReport, State.countReport_of_configured configured, ← State.abortAnswered_withStation]
  exact (if_pos completed).trans (congrArg (State.attemptOk i k o)
    (State.answerAbort_eq (s.withStation k _) (s.slot i) q _ request))

/-- R105, R111: the transaction of slot `i` is DONE. -/
def TransactionTable.withDone (t : TransactionTable) (i : SlotId) (k : StationId) (x : Slot) : TransactionTable :=
  { t with
    slots := t.slots.set i x
    fifos := t.fifos.set k (t.fifos[k].filter (· ≠ i))
    doneQueue := t.doneQueue ++ [i] }

theorem State.endSlot_of_certain (station : (s.slot i).station = some k) {status : Status}
    (certain : status.uncertain = false) : s.endSlot i status
      = { s with tt := s.tt.withDone i k ((s.slot i).doneWith status (s.slot i).data 0) } :=
  s.slotDone_of_certain i k station certain _ 0

theorem State.attemptOk_read {t : TransactionTable} (tt : s.tt = t) (station : t.slots[i].station = some k)
    (kind : t.slots[i].kind = some .read) (e : Station) (payload : List Byte) :
    (s.withStation k e).attemptOk i k (.good (.data payload)) = State.withStation { s with
      tt := t.withDone i k (t.slots[i].doneWith .ok payload t.slots[i].count) } k e := by
  subst tt
  have same : ((s.withStation k e).slot i).kind = some .read := kind
  rw [State.attemptOk, same]
  exact (s.withStation k e).slotDone_of_certain i k station rfl payload _

theorem State.attemptOk_write {t : TransactionTable} (tt : s.tt = t) (station : t.slots[i].station = some k)
    (kind : t.slots[i].kind = some .write) (e : Station) (o : LineOutcome) :
    (s.withStation k e).attemptOk i k o = State.withStation { s with
      tt := t.withDone i k (t.slots[i].doneWith .ok t.slots[i].data 0) } k { e with toggle := !e.toggle } := by
  subst tt
  have same : ((s.withStation k e).slot i).kind = some .write := kind
  simp only [State.attemptOk, same]
  rw [State.updStation_withStation]
  exact State.endSlot_of_certain (s := s.withStation k { e with toggle := !e.toggle }) station rfl

/-- R39: a station enters RESTARTING. -/
theorem State.enterRestarting_withStation (s : State) (k : StationId) (e : Station) :
    (s.withStation k e).enterRestarting k = State.withStation { s with
      fl := if e.state = .mismatch then
          (s.fl.endCause .stationError (k.val + 1)).endCause .stationMismatch (k.val + 1)
        else s.fl.endCause .stationError (k.val + 1) } k
      { e with
        state := .restarting, report := e.reportAfter s.st.stateEvents .restarting, missCount := 0
        inputsValid := false, restartTimer := some (e.restartDelay * 1000) } := by
  rw [State.enterRestarting, State.moveStation_withStation _ _ _ (by decide), State.updStation_withStation,
    State.withStation_station]
  dsimp only
  by_cases mismatch : e.state = .mismatch
  · rw [if_pos mismatch, if_pos mismatch]
    rfl
  · rw [if_neg mismatch, if_neg mismatch]
    rfl

theorem State.attemptOk_restart {t : TransactionTable} (tt : s.tt = t) (station : t.slots[i].station = some k)
    (kind : t.slots[i].kind = some .restart) {f : FaultList} (fl : s.fl = f) {stateEvents : Bool}
    (events : s.st.stateEvents = stateEvents) (e : Station) (o : LineOutcome) :
    (s.withStation k e).attemptOk i k o = State.withStation { s with
      tt := t.withDone i k (t.slots[i].doneWith .ok t.slots[i].data 0)
      fl := if e.state = .mismatch then
          (f.endCause .stationError (k.val + 1)).endCause .stationMismatch (k.val + 1)
        else f.endCause .stationError (k.val + 1) } k
      { e with
        toggle := !e.toggle, state := .restarting, report := e.reportAfter stateEvents .restarting
        missCount := 0, inputsValid := false, restartTimer := some (e.restartDelay * 1000) } := by
  subst tt fl events
  have same : ((s.withStation k e).slot i).kind = some .restart := kind
  simp only [State.attemptOk, same]
  rw [State.updStation_withStation, State.enterRestarting_withStation]
  refine State.endSlot_of_certain (k := k) (status := .ok) ?_ rfl
  exact station

end

/-! ### ABORT_RESOLVED (R115) -/

theorem State.fixesOutcome_of_outcomeAt {s : State} {event : OutcomeEvent} {o : LineOutcome}
    (fixed : s.outcomeAt event = some o) : s.fixesOutcome event = true := by
  cases event with
  | character c =>
    rw [outcomeAt_character] at fixed
    split at fixed
    case isTrue receiving => simp [State.fixesOutcome, receiving, fixed]
    case isFalse => cases fixed
  | responseTimeout =>
    simp only [State.outcomeAt] at fixed
    split at fixed
    case isTrue h => simp [State.fixesOutcome, h]
    case isFalse => cases fixed
  | interByteTimeout =>
    simp only [State.outcomeAt] at fixed
    split at fixed
    case isTrue h => simp [State.fixesOutcome, h]
    case isFalse => cases fixed

/-- The rows of the event are one: ABORT_RESOLVED is the row of an attempt that an ABORT waits for. -/
theorem exec_attemptRow {s : State} {event : OutcomeEvent} {o : LineOutcome} {i : SlotId} {k : StationId}
    (fixed : s.outcomeAt event = some o) (inHand : s.cs.inHand = some (.attempt i k)) {row : Instr}
    (h : row ∈ rowOf event :: (if (s.slot i).abortPending then [.abortResolved event] else [])) :
    exec row s = exec (rowOf event) s := by
  rcases List.mem_cons.mp h with rfl | resolved
  · rfl
  split at resolved
  case isTrue aborted =>
    have waits : s.abortWaits = true := by simp only [State.abortWaits, inHand, aborted]
    rw [List.mem_singleton.mp resolved]
    refine (congrArg Host.Outcome.next (if_pos ⟨waits, State.fixesOutcome_of_outcomeAt fixed⟩)).trans ?_
    cases event <;> rfl
  case isFalse => exact absurd resolved List.not_mem_nil

/-- R105, R115: the row of an outcome that completes the transaction of the attempt in hand. -/
theorem State.exec_attempt_completed {s : State} {event : OutcomeEvent} {i : SlotId} {k : StationId} {r : Reply}
    {q : ControlRequest} (fixed : s.outcomeAt event = some (.good r)) (inHand : s.cs.inHand = some (.attempt i k))
    (used : (s.station k).state ≠ .unused) (request : (s.slot i).abortPending = true → s.sc.request = some q)
    (completed : (s.slot i).completedBy (.good r) = true) {d : State} (ok : State.attemptOk i k (.good r)
      (((s.atDelivery event).abortAnswered (s.slot i) q (.rejected .tooLate)).withStation k { s.station k with
        counters := (s.station k).counters.count false (.good r) }) = d) :
    exec (rowOf event) s = .next (State.continueCycle (s.lineSettled event d)) := by
  have configured : ((s.atDelivery event).station k).configured = true := (Station.configured_iff _).mpr used
  have report := State.attemptReport_of_completed configured request completed
  rw [State.exec_rowOf_of_report fixed inHand (report.trans ok), State.afterOutcome_good]

/-- Settles O45: by the kind of the slot. -/
theorem attemptCompletesOk : Obligations.AttemptCompletesOk := by
  intro s event i k o q fixed inHand station used frame request x e past done row hrow
  rw [exec_attemptRow fixed inHand hrow]
  have settled : s.lineSettled event ((s.atDelivery event).abortAnswered x q (.rejected .tooLate)) = past :=
    State.lineSettled_abortAnswered ..
  have tt : ((s.atDelivery event).abortAnswered x q (.rejected .tooLate)).tt = s.tt := State.abortAnswered_tt ..
  rw [← settled]
  refine ⟨fun payload kind good => ?_, fun kind good => ?_, fun kind good => ?_⟩
  · subst good
    have completed : x.completedBy (.good (.data payload)) = true := by simp [Slot.completedBy, x, frame, kind]
    exact State.exec_attempt_completed fixed inHand used request completed
      (State.attemptOk_read tt station kind e payload)
  · subst good
    have completed : x.completedBy (.good .done) = true := by simp [Slot.completedBy, x, frame, kind]
    exact State.exec_attempt_completed fixed inHand used request completed
      (State.attemptOk_write tt station kind e _)
  · subst good
    have completed : x.completedBy (.good .done) = true := by simp [Slot.completedBy, x, frame, kind]
    exact State.exec_attempt_completed fixed inHand used request completed
      (State.attemptOk_restart tt station kind (State.abortAnswered_fl ..)
        (congrArg StationTable.stateEvents (State.abortAnswered_st ..)) e _)

end Sys2Proof.Machine
end

section
/-! An attempt that does not complete its transaction (R28, R45, R106 to R110, R115 to R117). -/

namespace Sys2Proof.Machine

/-! ### The report -/

section
variable {s : State} {i : SlotId} {k : StationId} {o : LineOutcome}

/-- R106 to R110: a report that does not complete the transaction, where nothing else decides the slot. -/
theorem State.attemptReport_of_undecided (configured : (s.station k).configured = true)
    (undone : (s.slot i).completedBy o = false) (undecided : s.decidedEnd i k = none) :
    let counted := s.withStation k { s.station k with counters := (s.station k).counters.count false o }
    s.attemptReport i k o = ((counted.resyncAtStation i k o).updSlot i (Slot.noteDoubt o)).attemptGoesOn i o
      (counted.identityMatches k o) := by
  intro counted
  have decided : counted.decidedEnd i k = none := by
    rw [← undecided]
    simp only [State.decidedEnd, counted, State.withStation_station]
    rfl
  rw [State.attemptReport, State.countReport_of_configured configured]
  refine (if_neg ?_).trans ?_
  · exact Bool.not_eq_true _ ▸ undone
  · dsimp only
    rw [decided]

/-- R115 to R117: a report that does not complete the transaction, where an abort, a removal or an ending code
decides the slot. -/
theorem State.attemptReport_of_decided (configured : (s.station k).configured = true)
    (undone : (s.slot i).completedBy o = false) {code : Status} (decides : s.decidedEnd i k = some code) :
    let counted := s.withStation k { s.station k with counters := (s.station k).counters.count false o }
    s.attemptReport i k o = (((counted.resyncAtStation i k o).updSlot i (Slot.noteDoubt o)).answerAbort
      (s.slot i).abortPending (s.slot i).index .ok).endSlot i code := by
  intro counted
  have decided : counted.decidedEnd i k = some code := by
    rw [← decides]
    simp only [State.decidedEnd, counted, State.withStation_station]
    rfl
  rw [State.attemptReport, State.countReport_of_configured configured]
  refine (if_neg ?_).trans ?_
  · exact Bool.not_eq_true _ ▸ undone
  · dsimp only
    rw [decided]
    rfl

/-- R110, R111: a slot that changes and is then DONE. -/
theorem State.endSlot_withSlot {t : TransactionTable} (tt : s.tt = t) {y : Slot} (station : y.station = some k)
    (status : Status) : (s.withSlot i y).endSlot i status = State.withStation { s with
      tt := t.withDone i k (y.doneWith status y.data 0) } k
      { s.station k with resync := (s.station k).resync || y.uncertainEnd status } := by
  subst tt
  rw [State.endSlot, State.slotDone_eq _ i k (by rw [State.withSlot_slot]; exact station), State.withSlot_slot]
  simp only [State.withSlot, Vector.set_set]
  rfl

/-- R28 to R30: what a GOOD IDENT does leaves the line and the session aside. -/
theorem State.goodIdent_with {e : Station} (used : e.state ≠ .unused) (ident : Identity) (lc : LineController)
    (sc : SessionController) : State.goodIdent k ident (State.withStation { s with lc := lc, sc := sc } k e)
      = { (s.withStation k e).goodIdent k ident with lc := lc, sc := sc } := by
  cases differs : e.mismatch ident with
  | none =>
    by_cases waits : e.state ∈ [.probing, .lost, .mismatch]
    · rw [State.goodIdent_of_fits _ _ differs waits, State.enterService_withStation,
        State.goodIdent_of_fits _ _ differs waits, State.enterService_withStation]
      rfl
    · rw [State.goodIdent_of_fits_staying _ _ differs waits, State.goodIdent_of_fits_staying _ _ differs waits]
      rfl
  | some d =>
    by_cases restarting : e.state = .restarting
    · rw [State.goodIdent_of_restarting _ _ restarting, State.goodIdent_of_restarting _ _ restarting]
      rfl
    · rw [State.goodIdent_of_differs _ _ differs used restarting,
        State.goodIdent_of_differs _ _ differs used restarting]
      rfl

theorem State.resyncAtStation_with {e : Station} (used : e.state ≠ .unused) (lc : LineController)
    (sc : SessionController) : State.resyncAtStation i k o (State.withStation { s with lc := lc, sc := sc } k e)
      = { (s.withStation k e).resyncAtStation i k o with lc := lc, sc := sc } := by
  have slot : (State.withStation { s with lc := lc, sc := sc } k e).slot i = (s.withStation k e).slot i := rfl
  unfold State.resyncAtStation
  rw [slot]
  split
  · exact State.goodIdent_with used ..
  · rfl

theorem State.resyncAtStation_sc {e : Station} (used : e.state ≠ .unused) :
    ((s.withStation k e).resyncAtStation i k o).sc = s.sc := by
  have same := congrArg State.sc (State.resyncAtStation_with (s := s) (i := i) (k := k) (o := o) used s.lc s.sc)
  exact same

theorem State.resyncAtStation_eq {form : Option AttemptForm} : (s.slot i).form = form →
    s.resyncAtStation i k o = match o, form with
      | .good (.data payload), some .resync => s.goodIdent k (identityOf payload)
      | _, _ => s := by
  intro h
  unfold State.resyncAtStation
  rw [h]
  split
  case h_1 => rfl
  case h_2 other =>
    split
    case h_1 => exact absurd rfl (other _ rfl)
    case h_2 => rfl

/-- R28, R115: the line settles and the ABORT is answered apart from what the resync does at its station. -/
theorem State.lineSettled_resync {b : State} (event : OutcomeEvent) {e : Station} (used : e.state ≠ .unused) (x : Slot)
    (q : ControlRequest) (status : Status) :
    s.lineSettled event (((b.withStation k e).resyncAtStation i k o).abortAnswered x q status)
      = ((s.lineSettled event (b.abortAnswered x q status)).withStation k e).resyncAtStation i k o := by
  have apart := State.resyncAtStation_with (s := b) (i := i) (k := k) (o := o) used
  have session := State.resyncAtStation_sc (s := b) (i := i) (k := k) (o := o) used
  unfold State.abortAnswered
  split
  · refine Eq.trans ?_ (apart _ _).symm
    rw [State.controlAnswered, State.lineSettled, session]
    rfl
  · refine Eq.trans ?_ (apart _ _).symm
    rw [State.lineSettled, session]

end

/-- R108: the doubt an outcome leaves. -/
theorem Slot.doubtedBy_good (r : Reply) (x : Slot) : x.doubtedBy (.good r) = false := Bool.and_false _

theorem Slot.doubtedBy_failed (d : LinkDetail) (x : Slot) : x.doubtedBy (.failed d)
    = decide (x.form = some .frame ∧ (x.kind = some .write ∨ x.kind = some .restart) ∧ d ≠ .misaddressed) := by
  rw [Bool.decide_and, Bool.decide_and, Bool.decide_or, ← Bool.and_assoc]
  cases d <;> rfl

theorem Slot.doubtedBy_eq (o : LineOutcome) (x : Slot) : x.doubtedBy o
    = decide (x.form = some .frame ∧ (x.kind = some .write ∨ x.kind = some .restart)
      ∧ o ∈ [.failed .timeout, .failed .crcError, .failed .malformed, .failed .toggleError]) := by
  cases o with
  | good r => simp [Slot.doubtedBy_good]
  | failed d =>
    rw [Slot.doubtedBy_failed, decide_eq_decide]
    cases d <;> simp

theorem Slot.completedBy_eq_false {x : Slot} {o : LineOutcome}
    (h : ¬ (x.form = some .frame ∧ ((x.kind = some .read ∧ ∃ payload, o = .good (.data payload))
      ∨ (x.kind ∈ [some .write, some .restart] ∧ o = .good .done)))) : x.completedBy o = false := by
  refine Bool.eq_false_iff.mpr fun completed => h ?_
  simp only [Slot.completedBy, Bool.and_eq_true, decide_eq_true_eq] at completed
  obtain ⟨frame, reply⟩ := completed
  refine ⟨frame, ?_⟩
  split at reply
  case h_1 payload kind => exact .inl ⟨kind, payload, rfl⟩
  case h_2 kind => exact .inr ⟨by rw [kind]; exact .head _, rfl⟩
  case h_3 kind => exact .inr ⟨by rw [kind]; exact .tail _ (.head _), rfl⟩
  case h_4 => cases reply

/-- R115 to R117: the precedence of an abort, a removal and an ending code. -/
theorem State.decidedEnd_eq_some {s : State} {i : SlotId} {k : StationId} {code : Status}
    (decides : if (s.slot i).abortPending then code = .ended .aborted
      else if (s.station k).removePending then code = .station .removed
      else (s.tt.ending = some .cyclesStopped ∧ code = .ended .cyclesStopped)
        ∨ (s.tt.ending = some .sessionClosed ∧ code = .ended .sessionClosed)) : s.decidedEnd i k = some code := by
  unfold State.decidedEnd
  split at decides
  case isTrue aborted => rw [if_pos aborted, decides]
  case isFalse kept =>
    rw [if_neg kept]
    split at decides
    case isTrue removed => rw [if_pos removed, decides]
    case isFalse stays =>
      rw [if_neg stays]
      rcases decides with ⟨ending, rfl⟩ | ⟨ending, rfl⟩ <;> rw [ending]

/-- R110: of the codes that decide an attempt, an abort's alone is an uncertain failure. -/
theorem State.uncertain_of_decidedEnd {s : State} {i : SlotId} {k : StationId} {code : Status}
    (decided : s.decidedEnd i k = some code) : code.uncertain = (s.slot i).abortPending := by
  unfold State.decidedEnd at decided
  split at decided
  case isTrue aborted => rw [← Option.some.inj decided, aborted]; rfl
  case isFalse kept =>
    rw [Bool.eq_false_iff.mpr kept]
    split at decided
    case isTrue => rw [← Option.some.inj decided]; rfl
    case isFalse => split at decided <;> cases decided <;> rfl

/-- R110, R111, R115: the ABORT's answer and the end of the slot that the outcome has changed. -/
theorem State.endSlot_answerAbort {s u : State} {i : SlotId} {k : StationId} {q : ControlRequest} {o : LineOutcome}
    (tt : u.tt = s.tt) (station : (s.slot i).station = some k)
    (request : (s.slot i).abortPending = true → u.sc.request = some q) (code : Status) :
    let y := Slot.noteDoubt o (s.slot i)
    let answered := u.abortAnswered (s.slot i) q .ok
    ((u.updSlot i (Slot.noteDoubt o)).answerAbort (s.slot i).abortPending (s.slot i).index .ok).endSlot i code
      = State.withStation { answered with tt := s.tt.withDone i k (y.doneWith code (s.slot i).data 0) } k
        { answered.station k with resync := (answered.station k).resync || y.uncertainEnd code } := by
  intro y answered
  rw [State.updSlot_eq_withSlot, State.slot_congr tt, State.answerAbort_eq (u.withSlot i y) (s.slot i) q .ok request,
    State.abortAnswered_withSlot]
  exact State.endSlot_withSlot ((State.abortAnswered_tt ..).trans tt) (y := y) station code

/-- R28, R45, R108 to R111, R115 to R117: all that a report does which an abort, a removal or an ending code
decides. -/
theorem State.attemptReport_decided_eq {s : State} {i : SlotId} {k : StationId} {o : LineOutcome} {q : ControlRequest}
    {code : Status} (station : (s.slot i).station = some k) (used : (s.station k).state ≠ .unused)
    (request : (s.slot i).abortPending = true → s.sc.request = some q) (undone : (s.slot i).completedBy o = false)
    (decides : s.decidedEnd i k = some code) :
    let y := Slot.noteDoubt o (s.slot i)
    let counted := s.withStation k { s.station k with counters := (s.station k).counters.count false o }
    let resynced := (counted.resyncAtStation i k o).abortAnswered (s.slot i) q .ok
    s.attemptReport i k o = State.withStation { resynced with
      tt := s.tt.withDone i k (y.doneWith code (s.slot i).data 0) } k { resynced.station k with
        resync := (resynced.station k).resync || y.uncertainEnd code } := by
  intro y counted resynced
  have session : (counted.resyncAtStation i k o).sc = s.sc := State.resyncAtStation_sc used
  have waits : (s.slot i).abortPending = true → (counted.resyncAtStation i k o).sc.request = some q := by
    rw [session]
    exact request
  have configured : (s.station k).configured = true := (Station.configured_iff _).mpr used
  have tt : (counted.resyncAtStation i k o).tt = s.tt := State.resyncAtStation_tt ..
  have ended := State.endSlot_answerAbort (o := o) tt station waits code
  exact (State.attemptReport_of_decided configured undone decides).trans ended

/-- Settles O47: the report, with the line settled. -/
theorem decidedAttemptEnds : Obligations.DecidedAttemptEnds := by
  intro s event i k o q code fixed inHand station used request x undone decides effectful doubtful past counted judged
    row hrow
  rw [exec_attemptRow fixed inHand hrow]
  have decided : s.decidedEnd i k = some code := State.decidedEnd_eq_some decides
  have form : (counted.slot i).form = x.form := by
    simp only [counted, past]
    split <;> rfl
  have resynced : counted.resyncAtStation i k o = judged := State.resyncAtStation_eq form
  have settled := State.lineSettled_resync (s := s) (b := s.atDelivery event) (i := i) (k := k) (o := o) event
    (e := { s.station k with counters := (s.station k).counters.count false o }) used x q .ok
  rw [State.lineSettled_abortAnswered] at settled
  have doubt : Slot.noteDoubt o x = { x with doubtful := doubtful } := by
    rw [Slot.noteDoubt, Slot.doubtedBy_eq]
  have uncertain : Slot.uncertainEnd code { x with doubtful := doubtful }
      = (x.abortPending && doubtful && decide effectful) := by
    rw [Slot.uncertainEnd, State.uncertain_of_decidedEnd decided, ← Bool.decide_or, Bool.and_comm, ← Bool.and_assoc,
      Bool.and_right_comm]
  have report := State.attemptReport_decided_eq (s := s.atDelivery event) station used request
    (Slot.completedBy_eq_false undone) decided
  rw [State.exec_rowOf_of_report fixed inHand report]
  have settles : s.lineSettled event (State.abortAnswered (State.resyncAtStation i k o
      ((s.atDelivery event).withStation k { s.station k with
        counters := (s.station k).counters.count false o })) x q .ok) = judged := settled.trans resynced
  rw [← settles, ← uncertain, ← doubt]
  rfl

end Sys2Proof.Machine
end

section
/-! An attempt that goes on or ends by its outcome alone (R28, R46, R106 to R110). -/

namespace Sys2Proof.Machine

/-! ### The slot -/

section
variable {s : State} {i : SlotId} {k : StationId} {y : Slot} (m : Bool)

theorem State.updSlot_withSlot (f : Slot → Slot) : (s.withSlot i y).updSlot i f = s.withSlot i (f y) := by
  simp only [State.updSlot, State.withSlot, Vector.getElem_set_self, Vector.set_set, Fin.getElem_fin]

/-- R111: a slot that changes and is DONE with a code that is no uncertain failure. -/
theorem State.slotDone_withSlot_of_certain (station : y.station = some k) {status : Status}
    (certain : status.uncertain = false) (data : List Byte) (n : Nat) : (s.withSlot i y).slotDone i status data n
      = { s with tt := s.tt.withDone i k (y.doneWith status data n) } := by
  rw [State.slotDone_of_certain _ i k (by rw [State.withSlot_slot]; exact station) certain, State.withSlot_slot]
  simp only [State.withSlot, Vector.set_set]
  rfl

theorem State.endSlot_withSlot_of_certain (station : y.station = some k) {status : Status}
    (certain : status.uncertain = false) : (s.withSlot i y).endSlot i status
      = { s with tt := s.tt.withDone i k (y.doneWith status y.data 0) } := by
  rw [State.endSlot, State.slotDone_withSlot_of_certain station certain, State.withSlot_slot]

/-- R107: a failed attempt that is made again. -/
theorem State.attemptGoesOn_failed_again {d : LinkDetail} (again : y.attemptCount + 1 < s.tt.attemptLimit) :
    (s.withSlot i y).attemptGoesOn i (.failed d) m = s.withSlot i y.requeue := by
  rw [State.attemptGoesOn, State.withSlot_slot, State.updSlot_withSlot]
  exact if_pos again

/-- R107, R110: a failed attempt at the attempt limit. -/
theorem State.attemptGoesOn_failed_last {d : LinkDetail} (last : s.tt.attemptLimit ≤ y.attemptCount + 1)
    (station : y.station = some k) (e : Station) :
    ((s.withStation k e).withSlot i y).attemptGoesOn i (.failed d) m = State.withStation { s with
      tt := s.tt.withDone i k ({ y with attemptCount := y.attemptCount + 1 }.doneWith (.link d) y.data 0) } k
      { e with resync := e.resync || y.uncertainEnd (.link d) } := by
  rw [State.attemptGoesOn, State.withSlot_slot, State.updSlot_withSlot, State.updSlot_withSlot]
  refine (if_neg (Nat.not_lt.mpr last)).trans ?_
  refine (State.endSlot_withSlot rfl (y := { y with attemptCount := y.attemptCount + 1 }) station _).trans ?_
  rw [State.withStation_station]
  exact State.withStation_withStation { s with tt := s.tt.withDone i k _ } k e _

/-- R106: WAIT within the wait limit. -/
theorem State.attemptGoesOn_wait_again {hint : Byte} (again : y.waitCount + 1 ≤ s.tt.waitLimit) :
    (s.withSlot i y).attemptGoesOn i (.good (.wait hint)) m = s.withSlot i { y with
      state := .backoff
      form := none
      waitCount := y.waitCount + 1
      backoffTimer := some (backoffTime s.tt.defaultBackoff hint) } := by
  rw [State.attemptGoesOn, State.withSlot_slot, State.updSlot_withSlot, State.updSlot_withSlot]
  exact if_neg (Nat.not_lt.mpr again)

/-- R106: WAIT past the wait limit. -/
theorem State.attemptGoesOn_wait_last {hint : Byte} (last : s.tt.waitLimit < y.waitCount + 1)
    (station : y.station = some k) : (s.withSlot i y).attemptGoesOn i (.good (.wait hint)) m = { s with
      tt := s.tt.withDone i k ({ y with waitCount := y.waitCount + 1 }.doneWith (.station .busy) y.data 0) } := by
  rw [State.attemptGoesOn, State.withSlot_slot, State.updSlot_withSlot, State.updSlot_withSlot]
  refine (if_pos last).trans ?_
  exact State.endSlot_withSlot_of_certain (y := { y with waitCount := y.waitCount + 1 }) station rfl

/-- R106: REFUSE. -/
theorem State.attemptGoesOn_refuse (reason : Byte) (station : y.station = some k) :
    (s.withSlot i y).attemptGoesOn i (.good (.refuse reason)) m
      = { s with tt := s.tt.withDone i k (y.doneWith (.station .refused) [reason] 1) } :=
  State.slotDone_withSlot_of_certain station rfl _ 1

/-- R109: a GOOD resync, by its match. -/
theorem State.attemptGoesOn_data (payload : List Byte) (station : y.station = some k) :
    (s.withSlot i y).attemptGoesOn i (.good (.data payload)) m = if m = true then s.withSlot i y.requeue
      else { s with tt := s.tt.withDone i k (y.doneWith (.station .mismatch) y.data 0) } := by
  rw [State.attemptGoesOn, State.updSlot_withSlot, State.endSlot_withSlot_of_certain station rfl]

end

/-! ### The station's counters (R46) -/

/-- R46: what an outcome counts at the station, field by field. -/
theorem attemptCounted (c : StationCounters) (poll : Bool) (o : LineOutcome) :
    let good := (∃ payload, o = .good (.data payload)) ∨ o = .good .done
    let up := fun x : Half => if x = 0xFFFF then x else x + 1
    (c.count poll o).pollsSent = (if poll then c.pollsSent + 1 else c.pollsSent)
    ∧ (good → (c.count poll o).goodReplies = c.goodReplies + 1)
    ∧ (¬ good → (c.count poll o).goodReplies = c.goodReplies)
    ∧ ((∃ hint, o = .good (.wait hint)) → (c.count poll o).waits = up c.waits)
    ∧ ((∀ hint, o ≠ .good (.wait hint)) → (c.count poll o).waits = c.waits)
    ∧ ((∃ reason, o = .good (.refuse reason)) → (c.count poll o).refuses = up c.refuses)
    ∧ ((∀ reason, o ≠ .good (.refuse reason)) → (c.count poll o).refuses = c.refuses)
    ∧ (c.count poll o).timeouts = (if o = .failed .timeout then up c.timeouts else c.timeouts)
    ∧ (c.count poll o).crcErrors = (if o = .failed .crcError then up c.crcErrors else c.crcErrors) := by
  intro good up
  have counts : ∀ x, satInc x = up x := fun x => rfl
  cases o with
  | good r => cases r <;> cases poll <;> simp [StationCounters.count, good, counts]
  | failed d => cases d <;> cases poll <;> simp [StationCounters.count, good, counts]

/-! ### The report -/

section
variable {s : State} {i : SlotId} {k : StationId} {o : LineOutcome}

theorem Slot.completedBy_of_resync {x : Slot} (resync : x.form = some .resync) (o : LineOutcome) :
    x.completedBy o = false := by
  simp [Slot.completedBy, resync]

theorem Slot.completedBy_failed (x : Slot) (d : LinkDetail) : x.completedBy (.failed d) = false := Bool.and_false _

theorem Slot.completedBy_wait (x : Slot) (hint : Byte) : x.completedBy (.good (.wait hint)) = false :=
  Bool.and_false _

theorem Slot.completedBy_refuse (x : Slot) (reason : Byte) : x.completedBy (.good (.refuse reason)) = false :=
  Bool.and_false _

theorem Slot.noteDoubt_good (r : Reply) (x : Slot) : x.noteDoubt (.good r) = x := by
  rw [Slot.noteDoubt, Slot.doubtedBy_good, Bool.or_false]

/-- R28: the line settles apart from what a GOOD IDENT does at its station. -/
theorem State.lineSettled_goodIdent {b : State} (event : OutcomeEvent) {e : Station} (used : e.state ≠ .unused)
    (ident : Identity) : s.lineSettled event ((b.withStation k e).goodIdent k ident)
      = ((s.lineSettled event b).withStation k e).goodIdent k ident := by
  have apart := State.goodIdent_with (s := b) (k := k) used ident
  have session : ((b.withStation k e).goodIdent k ident).sc = b.sc := by
    have same := congrArg State.sc (apart b.lc b.sc)
    exact same
  refine Eq.trans ?_ (apart _ _).symm
  rw [State.lineSettled, session]

/-- R106 to R108: the row of an outcome that carries no identity and decides nothing but the slot. -/
theorem State.exec_attempt_goesOn {event : OutcomeEvent} (fixed : s.outcomeAt event = some o)
    (inHand : s.cs.inHand = some (.attempt i k)) (used : (s.station k).state ≠ .unused)
    (undone : (s.slot i).completedBy o = false) (undecided : s.decidedEnd i k = none)
    (plain : ∀ payload, o ≠ .good (.data payload)) {d : State} (goes : ∀ m,
      State.attemptGoesOn i o m (((s.atDelivery event).withStation k { s.station k with
        counters := (s.station k).counters.count false o }).withSlot i (Slot.noteDoubt o (s.slot i))) = d) :
    exec (rowOf event) s = .next (State.continueCycle (State.afterOutcome o (s.lineSettled event d))) := by
  have configured : ((s.atDelivery event).station k).configured = true := (Station.configured_iff _).mpr used
  have report := State.attemptReport_of_undecided (s := s.atDelivery event) configured undone undecided
  have stays (u : State) : u.resyncAtStation i k o = u := by
    unfold State.resyncAtStation
    split
    case h_1 payload _ => exact absurd rfl (plain payload)
    case h_2 => rfl
  dsimp only at report
  rw [stays] at report
  exact State.exec_rowOf_of_report fixed inHand (report.trans (goes _))

/-- R109: the slot of a GOOD resync, at a station that has judged the identity. -/
theorem State.attemptGoesOn_resynced {d : State} (tt : d.tt = s.tt) (station : (s.slot i).station = some k) (r : Reply)
    (m : Bool) (payload : List Byte) :
    (d.updSlot i (Slot.noteDoubt (.good r))).attemptGoesOn i (.good (.data payload)) m = { d with
      tt := if m = true then { s.tt with slots := s.tt.slots.set i (s.slot i).requeue }
        else s.tt.withDone i k ((s.slot i).doneWith (.station .mismatch) (s.slot i).data 0) } := by
  rw [State.updSlot_eq_withSlot, State.slot_congr tt, Slot.noteDoubt_good,
    State.attemptGoesOn_data m payload station, ← tt]
  split
  · rfl
  · rfl

/-- R28, R109: the report of a GOOD resync. -/
theorem State.attemptReport_resync {payload : List Byte} (station : (s.slot i).station = some k)
    (used : (s.station k).state ≠ .unused) (resync : (s.slot i).form = some .resync)
    (undecided : s.decidedEnd i k = none) :
    let judged := State.goodIdent k (identityOf payload) (s.withStation k { s.station k with
      counters := (s.station k).counters.count false (.good (.data payload)) })
    s.attemptReport i k (.good (.data payload)) = { judged with
      tt := if ((s.station k).mismatch (identityOf payload)).isNone = true then
          { s.tt with slots := s.tt.slots.set i (s.slot i).requeue }
        else s.tt.withDone i k ((s.slot i).doneWith (.station .mismatch) (s.slot i).data 0) } := by
  intro judged
  have configured : (s.station k).configured = true := (Station.configured_iff _).mpr used
  have fits : State.identityMatches k (.good (.data payload)) (s.withStation k { s.station k with
      counters := (s.station k).counters.count false (.good (.data payload)) })
      = ((s.station k).mismatch (identityOf payload)).isNone := by
    simp only [State.identityMatches, State.withStation_station]
    rfl
  have judges : State.resyncAtStation i k (.good (.data payload)) (s.withStation k { s.station k with
      counters := (s.station k).counters.count false (.good (.data payload)) }) = judged :=
    State.resyncAtStation_eq (form := some .resync) resync
  have report := State.attemptReport_of_undecided configured (Slot.completedBy_of_resync resync (.good (.data payload)))
    undecided
  dsimp only at report
  rw [fits, judges] at report
  have tt : judged.tt = s.tt := State.goodIdent_tt ..
  exact report.trans (State.attemptGoesOn_resynced tt station (.data payload) _ payload)

end

/-- Settles O46. -/
theorem attemptGoesOnOrEnds : Obligations.AttemptGoesOnOrEnds := by
  refine ⟨attemptCounted, ?_⟩
  intro s event i k o fixed inHand station used kept stays going x e past effectful back ended becomes
  have undecided : s.decidedEnd i k = none := by
    simp only [State.decidedEnd, kept, stays, going, Bool.false_eq_true, if_false]
  refine ⟨?_, ?_, ?_, ?_⟩
  · rintro d rfl y
    have doubt : Slot.noteDoubt (.failed d) x = { y with attemptCount := x.attemptCount } := by
      rw [Slot.noteDoubt, Slot.doubtedBy_failed]
    have row (t : State) := State.exec_attempt_goesOn (d := t) fixed inHand used (Slot.completedBy_failed _ d)
      undecided (by simp)
    rw [doubt] at row
    refine ⟨fun again => ?_, fun last => ?_⟩
    · exact row _ fun m => State.attemptGoesOn_failed_again m again
    · have uncertain : Slot.uncertainEnd (.link d) y = decide (effectful ∧ y.doubtful = true) := by
        rw [Bool.decide_and, Bool.decide_or, Bool.decide_eq_true]
        exact Bool.and_true _
      rw [← uncertain]
      exact row _ fun m => State.attemptGoesOn_failed_last (s := s.atDelivery event)
        (y := { y with attemptCount := x.attemptCount }) m last station e
  · rintro hint rfl
    have row (t : State) := State.exec_attempt_goesOn (d := t) fixed inHand used (Slot.completedBy_wait _ hint)
      undecided (by simp)
    rw [Slot.noteDoubt_good] at row
    refine ⟨fun again => ?_, fun last => ?_⟩
    · have backoff : backoffTime s.tt.defaultBackoff hint
          = if hint = 0 then s.tt.defaultBackoff else 100 * hint.toNat := by
        rw [backoffTime, Nat.mul_comm]
      rw [← backoff]
      exact row _ fun m => State.attemptGoesOn_wait_again m again
    · exact row _ fun m => State.attemptGoesOn_wait_last m last station
  · rintro reason rfl
    have row (t : State) := State.exec_attempt_goesOn (d := t) fixed inHand used (Slot.completedBy_refuse _ reason)
      undecided (by simp)
    rw [Slot.noteDoubt_good] at row
    exact row _ fun m => State.attemptGoesOn_refuse m reason station
  · rintro payload rfl resync judged
    have report := State.attemptReport_resync (s := s.atDelivery event) (payload := payload) station used resync undecided
    have row := State.exec_rowOf_of_report fixed inHand report
    have settled := State.lineSettled_goodIdent (s := s) (b := s.atDelivery event) (k := k) (e := e) event used
      (identityOf payload)
    rw [State.afterOutcome_good] at row
    have at_tt (tt : TransactionTable) : s.lineSettled event { State.goodIdent k (identityOf payload)
        ((s.atDelivery event).withStation k e) with tt := tt } = { judged with tt := tt } :=
      congrArg (fun d : State => { d with tt := tt }) settled
    refine ⟨fun fits => ?_, fun differs => ?_⟩
    · have same : ((s.station k).mismatch (identityOf payload)).isNone = true := Option.isNone_iff_eq_none.mpr fits
      exact row.trans (congrArg (fun d => Host.Outcome.next (State.continueCycle d))
        ((at_tt _).trans (congrArg (fun tt => { judged with tt := tt }) (if_pos same))))
    · have other : ¬ ((s.station k).mismatch (identityOf payload)).isNone = true :=
        Option.isNone_iff_eq_none.not.mpr differs
      exact row.trans (congrArg (fun d => Host.Outcome.next (State.continueCycle d))
        ((at_tt _).trans (congrArg (fun tt => { judged with tt := tt }) (if_neg other))))

end Sys2Proof.Machine
end

section
/-! The backoff, restart and hold timers (R40, R91, R96, R106). -/

namespace Sys2Proof.Machine

/-- Settles O52: by the state of the slot and of the station. -/
theorem backoffAndRestartTimersExpire : Obligations.BackoffAndRestartTimersExpire := by
  intro s running
  refine ⟨fun i backoff due => ?_, fun i waits => ?_, fun k restarting due => ?_, fun k waits => ?_⟩
  · exact congrArg Host.Outcome.next (if_pos ⟨running, backoff, due⟩)
  · exact congrArg Host.Outcome.next (if_neg fun ⟨_, backoff, due⟩ => waits.elim (· backoff) (· due))
  · refine congrArg Host.Outcome.next ((if_pos ⟨running, restarting, due⟩).trans ?_)
    have moved := s.moveStation_withStation k (s.station k) (dest := .probing) (by decide)
    rw [State.withStation_self] at moved
    rw [moved, State.updStation_withStation]
  · exact congrArg Host.Outcome.next (if_neg fun ⟨_, restarting, due⟩ => waits.elim (· restarting) (· due))

/-! ### SAFE entry (R91, R96) -/

theorem stationAt_address (k : StationId) : stationAt (k.val + 1) = some k := by
  have valid : 1 ≤ k.val + 1 ∧ k.val + 1 ≤ 31 := by omega
  rw [stationAt, dif_pos valid]
  rfl

/-- R91: SAFE entry rebuilds a POLL that the LC holds. -/
theorem State.rebuildHeld_of_poll {s : State} {k : StationId} {held : SendRequest} (holds : s.lc.held = some held)
    (kind : held.kind = .poll) (addressed : held.address = k.val + 1) :
    s.rebuildHeld = { s with lc := { s.lc with held := some (s.pollRequest k) } } := by
  simp only [State.rebuildHeld, holds, kind, addressed, stationAt_address]

theorem State.rebuildHeld_of_other {s : State} (other : ∀ held, s.lc.held = some held → held.kind ≠ .poll) :
    s.rebuildHeld = s := by
  unfold State.rebuildHeld
  split
  · rfl
  next held holds =>
    split
    · exact absurd ‹_› (other held holds)
    · rfl

theorem State.rebuildHeld_eq_with (s : State) : s.rebuildHeld = { s with lc := s.rebuildHeld.lc } := by
  unfold State.rebuildHeld
  split
  · rfl
  · split <;> rfl

theorem State.inServiceCount_congr {s t : State} (h : ∀ k, (t.station k).state = (s.station k).state) :
    t.inServiceCount = s.inServiceCount := by
  simp only [State.inServiceCount, Station.inService, h]

/-- R80, R91, R96, R123: SAFE entry in one step, but for the station entries. -/
theorem State.enterSafe_eq (s : State) : ∃ st : StationTable,
    s.enterSafe = { s with
      hm := s.hm.enterSafe
      st := st
      hqi := { s.hqi with readyList := s.hqi.readyList ++ s.confirmEntries allStations }
      lc := (State.rebuildHeld { s with hm := s.hm.enterSafe }).lc
      fl := s.fl.raise .holdExpired 0 (byteOf s.inServiceCount) s.cs.cycle }
    ∧ st.stateEvents = s.st.stateEvents
    ∧ ∀ k : StationId, st.entries[k] = (s.station k).confirmEnded (.station .outputsHeld) := by
  have rebuilt := State.rebuildHeld_eq_with { s with hm := s.hm.enterSafe }
  obtain ⟨walked, events, stations⟩ := State.foldl_endConfirmWith (.station .outputsHeld) allStations allStations_nodup
    (State.rebuildHeld { s with hm := s.hm.enterSafe })
  rw [rebuilt] at walked events stations
  have ended (k : StationId) := (stations k).trans (if_pos (mem_allStations k))
  have count : State.inServiceCount (allStations.foldl (State.endConfirmWith (.station .outputsHeld))
      { s with hm := s.hm.enterSafe, lc := (State.rebuildHeld { s with hm := s.hm.enterSafe }).lc })
      = s.inServiceCount := State.inServiceCount_congr fun k => by
    rw [ended]
    exact Station.confirmEnded_state ..
  have entered : s.enterSafe = (allStations.foldl (State.endConfirmWith (.station .outputsHeld))
      { s with hm := s.hm.enterSafe, lc := (State.rebuildHeld { s with hm := s.hm.enterSafe }).lc }).raise
      .holdExpired 0 (byteOf s.inServiceCount) := by
    rw [← count, ← rebuilt, State.enterSafe]
  rw [entered]
  generalize allStations.foldl _ _ = u at walked events ended
  refine ⟨u.st, ?_, events, ended⟩
  exact congrArg (fun u : State => { u with fl := u.fl.raise .holdExpired 0 (byteOf s.inServiceCount) u.cs.cycle }) walked

/-- Settles O53: a held POLL by the address it names. -/
theorem holdExpiryEntersSafe : Obligations.HoldExpiryEntersSafe := by
  intro s run expired
  obtain ⟨st, entered, events, ended⟩ := s.enterSafe_eq
  refine ⟨s.enterSafe, congrArg Host.Outcome.next (if_pos ⟨run, expired⟩), ?_⟩
  rw [entered]
  refine ⟨rfl, events, ended, fun k held holds poll addressed => ?_, fun other => ?_⟩
  · have line := congrArg State.lc
      (State.rebuildHeld_of_poll (s := { s with hm := s.hm.enterSafe }) holds poll addressed)
    exact line
  · have line := congrArg State.lc (State.rebuildHeld_of_other (s := { s with hm := s.hm.enterSafe }) other)
    exact line

end Sys2Proof.Machine
end

section
/-! Cycle starts, due times and overruns (R21, R53 to R55, R64 to R69). -/

namespace Sys2Proof.Machine

/-! ### What a cycle start does -/

/-- R69: the busy time of the cycle that ends, recorded. -/
theorem Scheduler.recordBusy_eq (c : Scheduler) :
    let busy := c.busyTime
    c.recordBusy = { c with
      lastBusy := some busy
      minBusy := some (match c.minBusy with
        | none => busy
        | some m => if busy < m then busy else m)
      maxBusy := some (match c.maxBusy with
        | none => busy
        | some m => if m < busy then busy else m) } := by
  intro busy
  unfold Scheduler.recordBusy
  cases c.minBusy <;> cases c.maxBusy <;> rfl

/-- R54, R55: the times and counts of the cycle that starts at `now`, with its number. -/
theorem Scheduler.begin_eq (now : Nat) (c : Scheduler) : c.begin now = { c with
    startTime := now
    due := if c.mode = .fixed then some (now + c.period) else none
    cycleTimer := some (if c.mode = .fixed then c.period else 100)
    emptyGapTimer := none
    overrun := false
    attempts := 0
    pollsSent := false
    activityEnd := none
    exchanged := false
    phase := .poll } := by
  unfold Scheduler.begin
  cases c.mode <;> rfl

/-- R21, R55: what a cycle start does from its times on. -/
theorem State.beginCycle_eq {s : State} (run : s.sc.engine = .run) : s.beginCycle = State.pollRest
    (allStations.filter fun k => (s.station k).inService && !(s.station k).removePending
      && decide (s.cs.cycle.toNat % (s.station k).divisor = (k.val + 1) % (s.station k).divisor))
    { s with
      fl := if s.lc.perCycle = 0 then s.fl.endCause .lineFault 0 else s.fl
      lc := { s.lc with perCycle := 0 }
      cs := s.cs.begin s.now } := by
  have noticed : ({ s with cs := s.cs.begin s.now } : State).lineCycleNotice = { s with
      fl := if s.lc.perCycle = 0 then s.fl.endCause .lineFault 0 else s.fl
      lc := { s.lc with perCycle := 0 }
      cs := s.cs.begin s.now } := by
    unfold State.lineCycleNotice
    dsimp only
    split <;> rfl
  rw [State.beginCycle, noticed]
  congr 1
  refine List.filter_congr fun k _ => ?_
  simp only [State.inPollSet, run, decide_true, Bool.and_true]
  rfl

/-- R54, R67, R69: the start of a cycle after cycle 0. -/
theorem State.nextCycle_eq {s : State} (run : s.sc.engine = .run) :
    let number := s.cs.cycle + 1
    let faults := if s.cs.overrun then s.fl else s.fl.endCause .cycleOverrun 0
    s.nextCycle = State.pollRest
      (allStations.filter fun k => (s.station k).inService && !(s.station k).removePending
        && decide (number.toNat % (s.station k).divisor = (k.val + 1) % (s.station k).divisor))
      { s with
        fl := if s.lc.perCycle = 0 then faults.endCause .lineFault 0 else faults
        lc := { s.lc with perCycle := 0 }
        cs := Scheduler.begin s.now { s.cs.recordBusy with
          runLength := if s.cs.overrun then s.cs.runLength else 0
          cycle := number } } := by
  intro number faults
  have closed : s.closeCycle = { s with
      fl := faults
      cs := { s.cs.recordBusy with runLength := if s.cs.overrun then s.cs.runLength else 0 } } := by
    have busy : s.cs.recordBusy.overrun = s.cs.overrun := rfl
    simp only [State.closeCycle, busy, faults]
    split
    · rfl
    · rfl
  rw [State.nextCycle, closed]
  exact State.beginCycle_eq run

/-! ### The four moments (R64, R66, R68) -/

section
variable {s : State}

theorem State.cycling_iff : s.cycling = true ↔ s.sc.engine = .run ∧ s.sc.teardown = .none := by
  simp [State.cycling]

/-- R64: the cycle's activity has ended. -/
theorem State.activityEnded_iff : s.activityEnded = true ↔
    s.cs.phase = .awaitStart ∨ (s.cs.phase = .window ∧ s.cs.inHand = none) := by
  simp [State.activityEnded]

theorem State.dueNow_iff : s.dueNow = true ↔ s.cycling = true ∧ s.cs.mode = .fixed ∧ s.cs.cycleTimer = some 0 := by
  simp [State.dueNow, and_assoc]

/-- R68: both moments of a free-run cycle have passed. -/
theorem State.freeRunStart_iff : s.freeRunStart = true ↔ s.cycling = true ∧ s.cs.mode = .freeRun
    ∧ s.cs.phase = .awaitStart ∧ s.cs.cycleTimer = none ∧ s.gapMomentPassed = true := by
  simp [State.freeRunStart, and_assoc]

theorem State.gapMomentPassed_iff : s.gapMomentPassed = true ↔ (s.cs.exchanged = true ∧ s.lc.state = .idle)
    ∨ (s.cs.exchanged = false ∧ s.cs.emptyGapTimer = none) := by
  unfold State.gapMomentPassed
  cases s.cs.exchanged <;> simp

/-- R66, R68: the cycle waits for the line. -/
theorem State.startsAtIdle_iff : s.startsAtIdle = true ↔ s.cycling = true ∧ s.cs.phase = .awaitStart
    ∧ ((s.cs.mode = .fixed ∧ s.cs.overrun = true)
      ∨ (s.cs.mode = .freeRun ∧ s.cs.exchanged = true ∧ s.cs.cycleTimer = none)) := by
  simp [State.startsAtIdle, and_assoc]

/-- CYCLE_START is the row of its event where the event starts a cycle. -/
theorem exec_of_starts {t : StartTrigger} (starts : s.starts t = true) {event : Instr}
    (same : exec event s = .next (s.onTrigger t)) {o : Host.Outcome State Fault Refusal}
    (result : Host.Outcome.next (s.onTrigger t) = o) : ∀ row ∈ [Instr.cycleStart t, event], exec row s = o := by
  intro row hrow
  rcases List.mem_pair.mp hrow with rfl | rfl
  · exact (congrArg Host.Outcome.next (if_pos starts)).trans result
  · exact same.trans result

/-- R64: CYCLE_DUE at the end of the activity. -/
theorem State.onDue_of_ended (due : s.dueNow = true) (ended : s.activityEnded = true) : s.onDue = s.nextCycle :=
  (if_pos due).trans (if_pos ended)

end

/-- Settles O48: each moment starts a cycle, by what its event leaves of the timers and of the line. -/
theorem cycleStartsAtItsMoment : Obligations.CycleStartsAtItsMoment := by
  intro s run going busy number faults due started
  have cycling : s.cycling = true := State.cycling_iff.mpr ⟨run, going⟩
  have begins (lc : LineController) (timer gap : Option Nat) (cleared : lc.perCycle = s.lc.perCycle) :
      Host.Outcome.next (State.nextCycle { s with
        lc := lc, cs := { s.cs with cycleTimer := timer, emptyGapTimer := gap } }) = started lc := by
    rw [State.nextCycle_eq (by exact run), Scheduler.begin_eq, Scheduler.recordBusy_eq]
    simp only [started, ← cleared]
    rfl
  refine ⟨fun fixed expired ended => ?_, fun free waits expired passed => ?_,
    fun free waits stopped unsent expired => ?_, fun waits gap expired none moment => ?_⟩
  · have due : s.dueNow = true := State.dueNow_iff.mpr ⟨cycling, fixed, expired⟩
    have done : s.activityEnded = true := State.activityEnded_iff.mpr ended
    refine exec_of_starts (by rw [State.starts, due, done]; rfl) rfl ?_
    exact (congrArg Host.Outcome.next (State.onDue_of_ended due done)).trans (begins s.lc _ _ rfl)
  · have starts : State.freeRunStart { s with cs := { s.cs with cycleTimer := none } } = true :=
      State.freeRunStart_iff.mpr ⟨cycling, free, waits, rfl, State.gapMomentPassed_iff.mpr passed⟩
    refine exec_of_starts (by rw [State.starts, expired, starts]; rfl) rfl ?_
    refine (congrArg Host.Outcome.next ((if_pos ⟨cycling, free, expired⟩).trans (if_pos starts))).trans ?_
    exact begins s.lc none _ rfl
  · have starts : State.freeRunStart { s with cs := { s.cs with emptyGapTimer := none } } = true :=
      State.freeRunStart_iff.mpr ⟨cycling, free, waits, stopped, State.gapMomentPassed_iff.mpr (.inr ⟨unsent, rfl⟩)⟩
    refine exec_of_starts (by rw [State.starts, expired, starts]; rfl) rfl ?_
    refine (congrArg Host.Outcome.next ((if_pos expired).trans (if_pos starts))).trans ?_
    exact begins s.lc _ none rfl
  · have starts : s.startsAtIdle = true := State.startsAtIdle_iff.mpr ⟨cycling, waits, moment⟩
    refine exec_of_starts (by rw [State.starts, gap, expired, none, starts]; rfl) rfl ?_
    have ends : s.onGapEnd = State.nextCycle { s with lc := { s.lc with state := .idle, gapTimer := Option.none } } := by
      refine (if_pos ⟨gap, expired⟩).trans ?_
      rw [none]
      exact if_pos starts
    exact (congrArg Host.Outcome.next ends).trans (begins _ _ _ rfl)

/-- Settles O49: an unfinished activity overruns, and the other moments of a free-run cycle are noted. -/
theorem cycleTimersWithoutStart : Obligations.CycleTimersWithoutStart := by
  intro s length
  refine ⟨fun run going fixed expired busy unready => ?_, fun run going free expired ahead => ?_,
    fun expired running => ?_, fun trigger idle => ?_⟩
  · have due : s.dueNow = true := State.dueNow_iff.mpr ⟨State.cycling_iff.mpr ⟨run, going⟩, fixed, expired⟩
    have unfinished : ¬ s.activityEnded = true := fun h => (State.activityEnded_iff.mp h).elim busy unready
    have overrun : s.onDue = s.overruns := (if_pos due).trans (if_neg unfinished)
    refine (congrArg Host.Outcome.next overrun).trans (congrArg Host.Outcome.next ?_)
    unfold State.overruns
    dsimp only
    split <;> rfl
  · have cycling : s.cycling = true := State.cycling_iff.mpr ⟨run, going⟩
    have noted : ¬ State.freeRunStart { s with cs := { s.cs with cycleTimer := none } } = true := by
      intro starts
      obtain ⟨-, -, waits, -, passed⟩ := State.freeRunStart_iff.mp starts
      rcases ahead with open_ | ⟨sent, busy⟩ | ⟨unsent, running⟩
      · exact open_ waits
      · exact (State.gapMomentPassed_iff.mp passed).elim (fun h => busy h.2) fun h => absurd (sent.symm.trans h.1) nofun
      · exact (State.gapMomentPassed_iff.mp passed).elim (fun h => absurd (unsent.symm.trans h.1) nofun)
          fun h => running h.2
    exact congrArg Host.Outcome.next ((if_pos ⟨cycling, free, expired⟩).trans (if_neg noted))
  · have noted : ¬ State.freeRunStart { s with cs := { s.cs with emptyGapTimer := none } } = true := by
      intro starts
      obtain ⟨-, -, -, stopped, -⟩ := State.freeRunStart_iff.mp starts
      exact running stopped
    exact congrArg Host.Outcome.next ((if_pos expired).trans (if_neg noted))
  · exact congrArg Host.Outcome.next (if_neg (Bool.eq_false_iff.mp idle))

end Sys2Proof.Machine
end

section
/-! The phases of a cycle up to the acyclic window (R24, R52, R56 to R58, R62, R71, R74). -/

namespace Sys2Proof.Machine

/-! ### The first hit of a search in order -/

/-- In a list in the order `r`, a search finds the hit that no hit comes before. -/
theorem find?_of_least {α : Type} {r : α → α → Prop} {p : α → Bool} {a : α} {l : List α}
    (ordered : l.Pairwise r) (mem : a ∈ l) (hit : p a = true) (least : ∀ b ∈ l, p b = true → ¬ r b a) : l.find? p = some a := by
  induction l with
  | nil => cases mem
  | cons x xs ih =>
    obtain ⟨first, rest⟩ := List.pairwise_cons.mp ordered
    cases found : p x with
    | true =>
      rw [List.find?_cons_of_pos found]
      rcases List.mem_cons.mp mem with same | later
      · rw [same]
      · exact absurd (first a later) (least x List.mem_cons_self found)
    | false =>
      rw [List.find?_cons_of_neg (by rw [found]; decide)]
      rcases List.mem_cons.mp mem with same | later
      · rw [same, found] at hit
        cases hit
      · exact ih rest later fun b hb => least b (List.mem_cons_of_mem x hb)

/-- R58: how far an address is above the pointer, around the addresses. -/
def probeDistance (pointer : Nat) (k : StationId) : Nat := (k.val + 31 - pointer) % 31

theorem probeDistance_of_above {pointer : Nat} {k : StationId} (h : pointer < address k) :
    probeDistance pointer k = k.val - pointer := by
  have := k.isLt
  unfold address at h
  unfold probeDistance
  omega

theorem probeDistance_of_below {pointer : Nat} {k : StationId} (h : address k ≤ pointer) :
    probeDistance pointer k = k.val + 31 - pointer := by
  unfold address at h
  unfold probeDistance
  omega

/-- R58: the probe search takes the addresses by their distance above the pointer. -/
theorem probeOrder_pairwise {pointer : Nat} (valid : pointer ≤ 31) :
    (probeOrder pointer).Pairwise fun j k => probeDistance pointer j < probeDistance pointer k := by
  have ascending : allStations.Pairwise (· < ·) := List.pairwise_lt_finRange 31
  refine List.pairwise_append.mpr ⟨?_, ?_, fun j hj k hk => ?_⟩
  · refine (ascending.filter _).imp_of_mem fun {j k} hj hk less => ?_
    have above : pointer < address j := of_decide_eq_true (List.mem_filter.mp hj).2
    have after : j.val < k.val := less
    rw [probeDistance_of_above above, probeDistance_of_above (of_decide_eq_true (List.mem_filter.mp hk).2)]
    unfold address at above
    omega
  · refine (ascending.filter _).imp_of_mem fun {j k} hj hk less => ?_
    have below : address k ≤ pointer := of_decide_eq_true (List.mem_filter.mp hk).2
    have after : j.val < k.val := less
    rw [probeDistance_of_below (of_decide_eq_true (List.mem_filter.mp hj).2), probeDistance_of_below below]
    unfold address at below
    omega
  · have above : pointer < address j := of_decide_eq_true (List.mem_filter.mp hj).2
    have below : address k ≤ pointer := of_decide_eq_true (List.mem_filter.mp hk).2
    rw [probeDistance_of_above above, probeDistance_of_below below]
    unfold address at above
    omega

theorem mem_probeOrder (pointer : Nat) (k : StationId) : k ∈ probeOrder pointer := by
  by_cases above : pointer < address k
  · exact List.mem_append_left _ (List.mem_filter.mpr ⟨mem_allStations k, decide_eq_true above⟩)
  · exact List.mem_append_right _ (List.mem_filter.mpr ⟨mem_allStations k, decide_eq_true (Nat.not_lt.mp above)⟩)

section
variable {s : State}

/-- R58: the next probe candidate is the nearest above the pointer. -/
theorem State.nextProbe_of_nearest {k : StationId} (valid : s.cs.probePointer ≤ 31)
    (candidate : s.probeCandidate k = true)
    (nearest : ∀ j, s.probeCandidate j = true →
      probeDistance s.cs.probePointer k ≤ probeDistance s.cs.probePointer j) : s.nextProbe = some k :=
  find?_of_least (probeOrder_pairwise valid) (mem_probeOrder _ k) candidate
    fun j _ hj => Nat.not_lt.mpr (nearest j hj)

theorem State.nextProbe_of_none (none : ∀ k, s.probeCandidate k = false) : s.nextProbe = .none :=
  List.find?_eq_none.mpr fun k _ => by rw [none k]; decide

/-- R24: a MISMATCH station is no candidate while a restart put back is at the front of its FIFO. -/
theorem State.probeCandidate_iff (s : State) (k : StationId) : s.probeCandidate k = true ↔
    (s.station k).removePending = false ∧ ((s.station k).state ∈ [.probing, .lost]
      ∨ ((s.station k).state = .mismatch ∧ ¬ ∃ i, (s.fifo k).head? = some i ∧ (s.slot i).kind = some .restart
        ∧ (0 < (s.slot i).attemptCount ∨ 0 < (s.slot i).waitCount))) := by
  have restarting : s.restartInProgress k = true ↔ ∃ i, (s.fifo k).head? = some i ∧ (s.slot i).kind = some .restart
      ∧ (0 < (s.slot i).attemptCount ∨ 0 < (s.slot i).waitCount) := by
    unfold State.restartInProgress
    cases (s.fifo k).head? with
    | none => simp
    | some i => simp
  rw [← restarting]
  simp [State.probeCandidate, or_assoc]

end

/-! ### What each phase does -/

section
variable {s : State}

theorem State.continueCycle_of_stopped (h : s.sc.engine ≠ .run ∨ s.sc.teardown ≠ .none) : s.continueCycle = s :=
  if_neg fun cycling => h.elim (· (State.cycling_iff.mp cycling).1) (· (State.cycling_iff.mp cycling).2)

section
variable (cycling : s.cycling = true)
include cycling

theorem State.continueCycle_of_poll (phase : s.cs.phase = .poll) :
    s.continueCycle = State.pollRest s.cs.pollList s := by
  rw [State.continueCycle, if_pos cycling, phase]

theorem State.continueCycle_of_sync (phase : s.cs.phase = .sync) : s.continueCycle = s.enterProbe := by
  rw [State.continueCycle, if_pos cycling, phase]

theorem State.continueCycle_of_probe (phase : s.cs.phase = .probe) : s.continueCycle = s.enterWindow := by
  rw [State.continueCycle, if_pos cycling, phase]

theorem State.continueCycle_of_window (phase : s.cs.phase = .window) : s.continueCycle = s.consider := by
  rw [State.continueCycle, if_pos cycling, phase]

end

/-- R56, R74, R77: a POLL handed over. -/
theorem State.sendPoll_eq (s : State) (k : StationId) : s.sendPoll k = State.withStation { s with
    cs := { s.cs with inHand := some (.poll k), exchanged := true, pollsSent := true, phase := .poll }
    lc := s.lc.request {
      address := k.val + 1
      kind := .poll
      toggle := false
      payload := if s.hm.safe then 1 :: (s.station k).safeImage else 0 :: (s.station k).outputImage
      dataLength := some (1 + (s.station k).inputSize) } } k
    { s.station k with
      confirm := if s.hm.safe then (s.station k).confirm
        else (s.station k).confirm.map fun c => { c with carried := true } } := by
  have payload : s.pollPayload k
      = if s.hm.safe then 1 :: (s.station k).safeImage else 0 :: (s.station k).outputImage := by
    unfold State.pollPayload
    cases s.hm.safe <;> rfl
  have marked : (s.station k).markCarried s.hm.safe = { s.station k with
      confirm := if s.hm.safe then (s.station k).confirm
        else (s.station k).confirm.map fun c => { c with carried := true } } := by
    unfold Station.markCarried
    cases s.hm.safe <;> rfl
  rw [State.sendPoll, State.updStation_eq_withStation, marked, State.pollRequest, payload]
  rfl

/-- R24: in RUN the poll set is the stations in service that are not being removed. -/
theorem State.inPollSet_iff (run : s.sc.engine = .run) (k : StationId) :
    s.inPollSet k = true ↔ (s.station k).inService = true ∧ (s.station k).removePending = false := by
  simp [State.inPollSet, run]

/-- R56: what is still to be polled is what the poll list is walked with. -/
theorem State.pollRest_pollList (l rest : List StationId) :
    State.pollRest l { s with cs := { s.cs with pollList := rest } } = State.pollRest l s := by
  induction l with
  | nil => rfl
  | cons k l ih =>
    rw [State.pollRest, State.pollRest, ih]
    rfl

/-- R57: the payload of SYNC, the low byte of the cycle number. -/
theorem cycleByte (n : Word) : n.extractLsb' 0 8 = BitVec.ofNat 8 n.toNat := by
  apply BitVec.eq_of_toNat_eq
  simp

theorem State.takeAttempt_eq {i : SlotId} {k : StationId} (station : (s.slot i).station = some k) :
    s.takeAttempt i = { s with
      cs := { s.cs with inHand := some (.attempt i k), exchanged := true, attempts := satInc s.cs.attempts }
      tt := { s.tt with slots := s.tt.slots.set i { s.slot i with
        state := .onLink, fitPass := 0, form := some (s.nextForm i) } }
      lc := s.lc.request (s.attemptRequest i k) } := by
  rw [State.takeAttempt, station]
  rfl

end

/-- Settles O50: phase by phase. -/
theorem pollSyncAndProbePhases : Obligations.PollSyncAndProbePhases := by
  refine ⟨fun s h => State.continueCycle_of_stopped h, ?_⟩
  intro s run going restarting candidate distance ident probe window
  have cycling : s.cycling = true := State.cycling_iff.mpr ⟨run, going⟩
  have isCandidate (k : StationId) : s.probeCandidate k = true ↔ candidate k := s.probeCandidate_iff k
  refine ⟨fun k rest phase list => ⟨fun active kept => ?_, fun left => ?_⟩,
    fun phase list => ⟨fun option sent => ?_, fun off => ?_⟩,
    fun phase => ⟨fun idle => ?_, fun k onTime valid is nearest => ?_⟩, ?_⟩
  · rw [State.continueCycle_of_poll cycling phase, list, State.pollRest,
      if_pos ((State.inPollSet_iff run k).mpr ⟨active, kept⟩), State.sendPoll_eq, ← phase]
    rfl
  · have out : ¬ s.inPollSet k = true := fun h => by
      obtain ⟨active, kept⟩ := (State.inPollSet_iff run k).mp h
      exact left.elim (fun h => absurd (active.symm.trans h) nofun) fun h => absurd (kept.symm.trans h) nofun
    have next := State.continueCycle_of_poll (s := { s with cs := { s.cs with pollList := rest } }) cycling phase
    rw [State.continueCycle_of_poll cycling phase, list, State.pollRest, if_neg out]
    exact (next.trans (State.pollRest_pollList rest rest)).symm
  · have same : ({ s with cs := { s.cs with pollList := [] } } : State) = s := by rw [← list]
    rw [State.continueCycle_of_poll cycling phase, list, State.pollRest, same, State.enterSync, if_pos ⟨option, sent⟩,
      State.syncRequest, cycleByte]
    rfl
  · have same : ({ s with cs := { s.cs with pollList := [] } } : State) = s := by rw [← list]
    have none : ¬ (s.cs.syncOption = true ∧ s.cs.pollsSent = true) := by
      rintro ⟨on, sent⟩
      exact off.elim (fun h => absurd (on.symm.trans h) nofun) fun h => absurd (sent.symm.trans h) nofun
    rw [State.continueCycle_of_poll cycling phase, list, State.pollRest, same, State.enterSync, if_neg none]
    exact (State.continueCycle_of_sync (s := { s with cs := { s.cs with phase := .sync } }) cycling rfl).symm
  · have window : s.enterProbe = s.enterWindow := by
      unfold State.enterProbe
      split
      · rfl
      · rename_i onTime
        rw [State.nextProbe_of_none fun k => Bool.eq_false_iff.mpr fun h => 
          idle.elim onTime (· k ((isCandidate k).mp h))]
    rw [State.continueCycle_of_sync cycling phase, window]
    exact (State.continueCycle_of_probe (s := probe) cycling rfl).symm
  · have found : s.nextProbe = some k := State.nextProbe_of_nearest valid ((isCandidate k).mpr is)
      fun j hj => nearest j ((isCandidate j).mp hj)
    rw [State.continueCycle_of_sync cycling phase, State.enterProbe, if_neg (Bool.eq_false_iff.mp onTime), found]
    rfl
  · intro phase forced
    have inWindow := State.continueCycle_of_window (s := window) cycling rfl
    have hit (i : SlotId) : (State.eligible window i && decide ((State.slot window i).fitPass = 4)) = true
        ↔ forced i := by
      rw [Bool.and_eq_true, decide_eq_true_eq]
      rfl
    refine ⟨fun unforced => ?_, fun before i after k onTime fixed age others isForced station => ?_⟩
    · rw [State.continueCycle_of_probe cycling phase, inWindow]
      unfold State.enterWindow
      dsimp only
      split
      · rfl
      next forcing =>
        have none : State.forcedSlot window = .none := by
          refine List.find?_eq_none.mpr fun i hi found => ?_
          exact forcing (unforced.imp_right (Or.resolve_right · fun h => h i hi ((hit i).mp found)))
        rw [none]
    · have first : State.forcedSlot window = some i := by
        refine List.find?_eq_some_iff_append.mpr ⟨(hit i).mpr isForced, before, after, age, fun j hj => ?_⟩
        rw [Bool.eq_false_iff.mpr ((hit j).not.mpr (others j hj))]
        rfl
      have free : ¬ (s.cs.overrun = true ∨ s.cs.mode = .freeRun) := by
        rw [onTime, fixed]
        simp
      rw [State.continueCycle_of_probe cycling phase, State.enterWindow]
      refine (if_neg free).trans ?_
      rw [first]
      exact State.takeAttempt_eq (s := window) station

end Sys2Proof.Machine
end

section
/-! The acyclic window (R59 to R65, R102, R103). -/

namespace Sys2Proof.Machine

section
variable {s : State} {i : SlotId} {k : StationId}

/-- R64, R68: the end of a cycle's activity. -/
theorem State.endActivity_eq (s : State) : s.endActivity = { s with cs := { s.cs with
    phase := .awaitStart
    activityEnd := some (s.cs.activityEnd.getD s.cs.startTime)
    emptyGapTimer := if s.cs.mode = .freeRun ∧ s.cs.exchanged = false then
        some (s.lc.params.elim 0 LineParams.gapTime) else s.cs.emptyGapTimer } } := by
  have gap : (match s.lc.params with
      | none => 0
      | some p => p.gapTime) = s.lc.params.elim 0 LineParams.gapTime := by
    cases s.lc.params <;> rfl
  simp only [State.endActivity, ← gap, Bool.not_eq_true']
  rfl

/-- R102: an eligible slot in RUN. -/
theorem State.eligible_iff (run : s.sc.engine = .run) : s.eligible i = true ↔ ∃ k, (s.slot i).station = some k
    ∧ (s.slot i).state = .queued ∧ (s.fifo k).head? = some i ∧ (s.station k).removePending = false
    ∧ ((s.station k).state ∈ [.active, .degraded]
      ∨ ((s.station k).state = .mismatch ∧ (s.slot i).kind = some .restart)) := by
  unfold State.eligible
  cases (s.slot i).station with
  | none => simp
  | some k =>
    have active : (s.station k).inService = true ↔ (s.station k).state ∈ [.active, .degraded] := by
      rw [Station.inService_iff]
      simp
    simp only [Bool.and_eq_true, Bool.or_eq_true, decide_eq_true_eq, active, run, Option.some.injEq]
    constructor
    · rintro ⟨⟨⟨⟨queued, front⟩, state⟩, kept⟩, -⟩
      exact ⟨k, rfl, queued, front, by simpa using kept, state⟩
    · rintro ⟨_, rfl, queued, front, kept, state⟩
      exact ⟨⟨⟨⟨queued, front⟩, state⟩, by simpa using kept⟩, trivial⟩

/-- R103: the eligible slot that no eligible slot comes before. -/
theorem State.oldestEligible_of_first {before after : List SlotId} (age : s.tt.age = before ++ i :: after)
    (eligible : s.eligible i = true) (first : ∀ j ∈ before, s.eligible j = false) : s.oldestEligible = some i :=
  List.find?_eq_some_iff_append.mpr ⟨eligible, before, after, age, fun j hj => by rw [first j hj]; rfl⟩

theorem State.oldestEligible_of_none (none : ∀ j ∈ s.tt.age, s.eligible j = false) : s.oldestEligible = .none :=
  List.find?_eq_none.mpr fun j hj => by rw [none j hj]; decide

/-- R104: the form of the next attempt. -/
theorem State.nextForm_eq (station : (s.slot i).station = some k) : s.nextForm i
    = if (s.station k).resync = true ∧ (s.slot i).kind ∈ [some .write, some .restart] then .resync else .frame := by
  have effectful : ((s.slot i).kind = some .write ∨ (s.slot i).kind = some .restart)
      ↔ (s.slot i).kind ∈ [some .write, some .restart] := by simp
  rw [State.nextForm, station]
  simp only [effectful, and_comm]

/-- R59: the worst-case attempt time. -/
theorem State.worstCase_eq {p : LineParams} (station : (s.slot i).station = some k) (params : s.lc.params = some p) :
    let resync := (s.station k).resync = true ∧ (s.slot i).kind ∈ [some .write, some .restart]
    let request := if resync then 0 else match (s.slot i).kind with
      | some .read => 3
      | some .write => 2 + (s.slot i).data.length
      | some .restart | none => 0
    let reply := if resync then 5 else match (s.slot i).kind with
      | some .read => (s.slot i).count
      | some .write | some .restart => 1
      | none => 0
    s.worstCase i = p.gapTime + p.rate.byteTimes (6 + request) + p.responseTimeout + p.rate.byteTimes (6 + reply) := by
  intro resync request reply
  have payloads : s.attemptPayloads i = (request, reply) := by
    have form := State.nextForm_eq station
    by_cases resyncs : resync
    · rw [State.attemptPayloads, form.trans (if_pos resyncs)]
      simp only [request, reply, if_pos resyncs]
    · rw [State.attemptPayloads, form.trans (if_neg resyncs)]
      simp only [request, reply, if_neg resyncs]
      cases (s.slot i).kind with
      | none => rfl
      | some kind => cases kind <;> rfl
  rw [State.worstCase, params, payloads]

/-- R60: the fit test. -/
theorem State.fits_iff : s.fits i = true ↔ ∃ due, s.cs.due = some due ∧ s.now + s.worstCase i ≤ due := by
  unfold State.fits
  cases s.cs.due <;> simp

section
variable (onTime : s.cs.overrun = false)
include onTime

theorem State.consider_of_fixed (fixed : s.cs.mode = .fixed) : s.consider = s.considerFixed := by
  rw [State.consider, if_neg (Bool.eq_false_iff.mp onTime), fixed]

theorem State.consider_of_freeRun (free : s.cs.mode = .freeRun) : s.consider = s.considerFreeRun := by
  rw [State.consider, if_neg (Bool.eq_false_iff.mp onTime), free]

end

theorem State.considerFixed_of_oldest (oldest : s.oldestEligible = some i) : s.considerFixed
    = if s.fits i then s.takeAttempt i
      else State.endActivity (s.withSlot i { s.slot i with fitPass := min ((s.slot i).fitPass + 1) 4 }) := by
  rw [State.considerFixed, oldest]
  rfl

theorem State.considerFreeRun_of_oldest (oldest : s.oldestEligible = some i)
    (left : s.cs.attempts.toNat < s.cs.budget) : s.considerFreeRun = s.takeAttempt i := by
  rw [State.considerFreeRun, if_pos left, oldest]

end

/-- Settles O51: by the overrun, the mode and the oldest eligible slot. -/
theorem acyclicWindowServesOldestThatFits : Obligations.AcyclicWindowServesOldestThatFits := by
  constructor
  · refine fun s closed => if_neg ?_
    rintro ⟨cycling, inWindow, -⟩
    obtain ⟨run, going⟩ := State.cycling_iff.mp cycling
    exact closed.elim (· run) fun h => h.elim (· going) (· inWindow)
  intro s run going phase closed eligible
  have cycling : s.cycling = true := State.cycling_iff.mpr ⟨run, going⟩
  have isEligible (i : SlotId) : s.eligible i = true ↔ eligible i := State.eligible_iff run
  have notEligible (i : SlotId) (h : ¬ eligible i) : s.eligible i = false :=
    Bool.eq_false_iff.mpr ((isEligible i).not.mpr h)
  have considers := State.continueCycle_of_window cycling phase
  have ends (u : State) (same : u.cs = s.cs) (line : u.lc = s.lc) : u.endActivity = closed u := by
    rw [State.endActivity_eq]
    simp only [closed, same, line]
  rw [considers]
  refine ⟨fun overrun => ?_, fun onTime none => ?_, fun onTime free spent => ?_, ?_, fun idle fixed => ?_,
    fun busy => ?_⟩
  · exact (if_pos overrun).trans (ends s rfl rfl)
  · have oldest := State.oldestEligible_of_none fun j hj => notEligible j (none j hj)
    cases mode : s.cs.mode with
    | fixed =>
      rw [State.consider_of_fixed onTime mode, State.considerFixed, oldest]
      rfl
    | freeRun =>
      rw [State.consider_of_freeRun onTime mode, State.considerFreeRun, oldest, ite_self]
      exact ends s rfl rfl
  · rw [State.consider_of_freeRun onTime free]
    exact (if_neg (Nat.not_lt.mpr spent)).trans (ends s rfl rfl)
  · intro onTime before i after k p age others isOldest station params resync request reply fits taken
    have oldest := State.oldestEligible_of_first age ((isEligible i).mpr isOldest) fun j hj => notEligible j (others j hj)
    have takes : s.takeAttempt i = taken := by
      rw [State.takeAttempt_eq station, State.nextForm_eq station]
    have worst := State.worstCase_eq station params
    have fit : s.fits i = true ↔ fits := State.fits_iff.trans
      (exists_congr fun due => and_congr_right fun _ => iff_of_eq (congrArg (s.now + · ≤ due) worst))
    refine ⟨fun fixed h => ?_, fun fixed h => ?_, fun free left => ?_⟩
    · rw [State.consider_of_fixed onTime fixed, State.considerFixed_of_oldest oldest, if_pos (fit.mpr h), takes]
    · rw [State.consider_of_fixed onTime fixed, State.considerFixed_of_oldest oldest, if_neg (fit.not.mpr h)]
      exact ends _ rfl rfl
    · rw [State.consider_of_freeRun onTime free, State.considerFreeRun_of_oldest oldest left, takes]
  · exact if_pos ⟨cycling, phase, idle, fixed⟩
  · exact if_neg fun ⟨_, _, idle, fixed⟩ => busy.elim (· idle) fun free => absurd (fixed.symm.trans free) nofun

end Sys2Proof.Machine
end

section
/-! The start of cycle 0 (R21, R53, R54, R58, R150). -/

namespace Sys2Proof.Machine

/-! ### What the phases of a cycle leave alone -/

/-- The number, the times, the overrun and the traffic count of the cycle. -/
def State.cycleTimes (s : State) : Word × Nat × Option Nat × Option Nat × Bool × Word × Half :=
  (s.cs.cycle, s.cs.startTime, s.cs.due, s.cs.cycleTimer, s.cs.overrun, s.cs.runLength, s.lc.perCycle)

theorem LineController.request_perCycle (q : SendRequest) (l : LineController) :
    (l.request q).perCycle = l.perCycle := by
  unfold LineController.request
  split <;> rfl

section
variable (s : State)

theorem State.takeAttempt_cycleTimes (i : SlotId) : (s.takeAttempt i).cycleTimes = s.cycleTimes := by
  unfold State.takeAttempt
  split
  · rfl
  · simp only [State.cycleTimes, State.handOver, State.updSlot, LineController.request_perCycle]

theorem State.consider_cycleTimes : s.consider.cycleTimes = s.cycleTimes := by
  unfold State.consider
  split
  · rfl
  split
  · unfold State.considerFixed
    split
    · rfl
    · split
      · exact s.takeAttempt_cycleTimes _
      · rfl
  · unfold State.considerFreeRun
    split
    · split
      · rfl
      · exact s.takeAttempt_cycleTimes _
    · rfl

theorem State.enterWindow_cycleTimes : s.enterWindow.cycleTimes = s.cycleTimes := by
  unfold State.enterWindow
  dsimp only
  split
  · exact State.consider_cycleTimes { s with cs := { s.cs with phase := .window } }
  · split
    · exact State.takeAttempt_cycleTimes { s with cs := { s.cs with phase := .window } } _
    · exact State.consider_cycleTimes { s with cs := { s.cs with phase := .window } }

theorem State.enterProbe_cycleTimes : s.enterProbe.cycleTimes = s.cycleTimes := by
  unfold State.enterProbe
  split
  · exact s.enterWindow_cycleTimes
  · split
    · exact s.enterWindow_cycleTimes
    · simp only [State.cycleTimes, State.handOver, LineController.request_perCycle]

theorem State.enterSync_cycleTimes : s.enterSync.cycleTimes = s.cycleTimes := by
  unfold State.enterSync
  split
  · simp only [State.cycleTimes, State.handOver, LineController.request_perCycle]
  · exact s.enterProbe_cycleTimes

theorem State.pollRest_cycleTimes (l : List StationId) : (State.pollRest l s).cycleTimes = s.cycleTimes := by
  induction l with
  | nil => exact State.enterSync_cycleTimes { s with cs := { s.cs with pollList := [] } }
  | cons k rest ih =>
    rw [State.pollRest]
    split
    · simp only [State.cycleTimes, State.sendPoll, State.handOver, State.updStation, LineController.request_perCycle]
    · exact ih

end

/-! ### Cycle 0 with no station in service -/

/-- R58: with no POLL sent and the probe pointer at 0, the search begins at the lowest candidate. -/
theorem State.enterSync_of_probe {s : State} {k : StationId} (unsent : s.cs.pollsSent = false)
    (onTime : s.cs.overrun = false) (found : s.nextProbe = some k) : s.enterSync = { s with
      cs := { s.cs with inHand := some (.probe k), exchanged := true, phase := .probe, probePointer := k.val + 1 }
      lc := s.lc.request (identRequest k) } := by
  have off : ¬ (s.cs.syncOption = true ∧ s.cs.pollsSent = true) := fun ⟨_, sent⟩ =>
    absurd (unsent.symm.trans sent) nofun
  rw [State.enterSync, if_neg off, State.enterProbe,
    if_neg (Bool.eq_false_iff.mp onTime), found]
  rfl

theorem probeDistance_zero (k : StationId) : probeDistance 0 k = k.val := by
  have := k.isLt
  unfold probeDistance
  omega

/-- R150: the part as cycle 0 starts, before its first exchange. -/
def State.cycleZero (s : State) : State :=
  { s with
    sc := { s.sc with engine := .run }
    fl := if s.lc.perCycle = 0 then s.fl.endCause .lineFault 0 else s.fl
    lc := { s.lc with perCycle := 0 }
    cs := Scheduler.begin s.now { s.cs with cycle := 0, probePointer := 0, runLength := 0 } }

/-- R53, R55: cycle 0 goes on from there with the POLLs that are due. -/
theorem State.firstCycle_eq (s : State) : State.firstCycle { s with sc := { s.sc with engine := .run } }
    = State.pollRest (allStations.filter fun k => (s.station k).inService && !(s.station k).removePending
      && decide (0 % (s.station k).divisor = (k.val + 1) % (s.station k).divisor)) s.cycleZero :=
  State.beginCycle_eq (s := { s with
    sc := { s.sc with engine := .run }
    cs := { s.cs with cycle := 0, probePointer := 0, runLength := 0 } }) rfl

theorem exec_startCycles {s : State} {q : ControlRequest} (happ : s.Applies .startCycles q)
    (config : s.sc.engine = .config) {u : State}
    (first : State.firstCycle { s with sc := { s.sc with engine := .run } } = u) (session : u.sc = s.cycleZero.sc) :
    exec .startCycles s = .next (State.controlAnswered { u with hm := u.hm.load } q .ok [] []) := by
  have applied : s.applyControl .startCycles State.onStartCycles = State.onStartCycles q.record s :=
    State.applyControl_of_applies _ happ (by rw [config]; rfl)
  have request : ({ u with hm := u.hm.load } : State).sc.request = some q := by
    rw [session]
    exact happ.1
  refine (congrArg Host.Outcome.next applied).trans (congrArg Host.Outcome.next ?_)
  rw [State.onStartCycles, first]
  exact State.answer_of_request request .ok

/-- R58: with no station in service cycle 0 begins with the probe of the lowest PROBING address. -/
theorem State.firstCycle_of_probe {s : State} {k : StationId} (first : IsFirst (fun j => (s.station j).state = .probing) k)
    (none : ∀ k, (s.station k).inService = false ∧ (s.station k).removePending = false
      ∧ (s.station k).state ∈ [.unused, .probing]) :
    State.firstCycle { s with sc := { s.sc with engine := .run } } = { s.cycleZero with
      cs := { s.cycleZero.cs with
        inHand := some (.probe k), exchanged := true, phase := .probe, probePointer := k.val + 1, pollList := [] }
      lc := s.cycleZero.lc.request (identRequest k) } := by
  have active : (allStations.filter fun k => (s.station k).inService && !(s.station k).removePending
      && decide (0 % (s.station k).divisor = (k.val + 1) % (s.station k).divisor)) = [] := by
    refine List.filter_eq_nil_iff.mpr fun j _ => ?_
    rw [(none j).1]
    exact Bool.false_ne_true
  have isProbing (j : StationId) : s.probeCandidate j = true ↔ (s.station j).state = .probing := by
    obtain ⟨-, kept, state⟩ := none j
    rw [State.probeCandidate_iff]
    simp only [List.mem_cons, List.not_mem_nil, or_false] at state
    rcases state with unused | probing
    · simp [unused]
    · simp [probing, kept]
  have found : State.nextProbe { s.cycleZero with cs := { s.cycleZero.cs with pollList := [] } } = some k := by
    refine State.nextProbe_of_nearest (Nat.zero_le _) ((isProbing k).mpr first.1) fun j hj => ?_
    have least : k.val ≤ j.val := Nat.le_of_not_lt fun less => first.2 j less ((isProbing j).mp hj)
    exact (probeDistance_zero k).trans_le (least.trans_eq (probeDistance_zero j).symm)
  rw [State.firstCycle_eq, active, State.pollRest]
  exact State.enterSync_of_probe rfl rfl found

/-- Settles O21: the start of cycle 0, then the answer. -/
theorem startCyclesBeginsCycleZero : Obligations.StartCyclesBeginsCycleZero := by
  intro s q happ config
  obtain ⟨u, first⟩ : ∃ u, State.firstCycle { s with sc := { s.sc with engine := .run } } = u := ⟨_, rfl⟩
  have kept := State.pollRest_keepsOwners (allStations.filter fun k => (s.station k).inService
    && !(s.station k).removePending && decide (0 % (s.station k).divisor = (k.val + 1) % (s.station k).divisor))
    s.cycleZero
  have times := s.cycleZero.pollRest_cycleTimes (allStations.filter fun k => (s.station k).inService
    && !(s.station k).removePending && decide (0 % (s.station k).divisor = (k.val + 1) % (s.station k).divisor))
  rw [← State.firstCycle_eq, first] at kept times
  obtain ⟨rest, -, -, -, -⟩ := kept
  simp only [State.cycleTimes, State.cycleZero, Scheduler.begin_eq, Prod.mk.injEq] at times
  obtain ⟨cycle, start, due, timer, overrun, run, perCycle⟩ := times
  have session : u.sc = s.cycleZero.sc := by rw [rest]
  have monitor : u.hm = s.hm := by rw [rest]; rfl
  have queue : u.hqi = s.hqi := by rw [rest]; rfl
  have faults : u.fl = s.cycleZero.fl := by rw [rest]
  refine ⟨_, exec_startCycles happ config first session, ?_, cycle, start, run, overrun, fun fixed => ⟨?_, ?_⟩,
    fun free => ⟨?_, ?_⟩, ?_, faults, perCycle, queue, by rw [rest]; rfl, by rw [rest]; rfl, by rw [rest]; rfl,
    fun none k isFirst => ?_⟩
  · exact congrArg (fun sc : SessionController => { sc with
      request := some { q with stage := .ready (answerTo q.record .control q.index .ok [] []) } }) session
  · exact due.trans (if_pos fixed)
  · exact timer.trans (congrArg some (if_pos fixed))
  · exact due.trans (if_neg (by rw [free]; decide))
  · exact timer.trans (congrArg some (if_neg (by rw [free]; decide)))
  · exact congrArg HoldMonitor.load monitor
  · intro ident
    have probing := first.symm.trans (State.firstCycle_of_probe isFirst none)
    subst probing
    refine ⟨rfl, rfl, rfl, rfl, rfl, rfl, fun idle => ?_, fun gap => ?_⟩
    · have sent : s.cycleZero.lc.request (identRequest k) = s.cycleZero.lc.takeRequest ident := if_pos idle
      exact ⟨congrArg LineController.state sent, congrArg LineController.tx sent⟩
    · have held : s.cycleZero.lc.request (identRequest k) = { s.cycleZero.lc with held := some ident } :=
        if_neg (by rw [State.cycleZero, gap]; decide)
      exact held

end Sys2Proof.Machine
end
